-- ==== Sys2Proof/Word.lean ====
section
/-! DEFINITION. The word types of ZisaDMA: an unsigned byte and a 24-bit address or count (R9, R10). -/

namespace Sys2Proof

/-- `u8`: a byte on the memory bus, on an I/O port or in a record (R9, R33). -/
abbrev Byte := BitVec 8

/-- `u24`: `ADDR_W` = 24 bits (R7); the width of `desc_addr`, of the two address counters and of `length`.
Addition and subtraction are those of `BitVec 24`, that is modulo 2^24 (R10). -/
abbrev Addr := BitVec 24

end Sys2Proof
end

