-- ==== Sys2Proof/Syntax.lean ====
section
/-! DEFINITION. The instructions of ZisaDMA: the port transactions (format PT) and the descriptor records (format DESC),
one constructor per row of spec/opcode_table.json (R51, R61). -/

namespace Sys2Proof

/-- The two encoded forms (R51): a port transaction, told by its arrival on the I/O slave port, and a descriptor record,
told by the walker's fetch (R61). -/
inductive Form where
  | pt
  | desc
deriving DecidableEq, Repr, Inhabited

/-- A 2-bit step-mode field, decoded (R57). `reserved3` is the value 3, which the walker executes as FIXED (R97). -/
inductive StepMode where
  | fixed
  | increment
  | decrement
  | reserved3
deriving DecidableEq, Repr, Inhabited

/-- The fields of a descriptor record other than `is_last` (R54 to R56); `is_last` selects the constructor of `Instr`.
`reserved` is `flags[7:5]`, kept so that no bit of a record is lost; the walker ignores it (R59). -/
structure Desc where
  readAddress  : Addr
  writeAddress : Addr
  length       : BitVec 24
  readStep     : StepMode
  writeStep    : StepMode
  reserved     : BitVec 3
deriving DecidableEq, Repr, Inhabited

/-- One constructor per row of spec/opcode_table.json (R61). RD.NONE and WR.NONE have one row for each of `off` 5, 6, 7.
A write carries its data byte `v`; a read has no operand (R65 to R77). -/
inductive Instr where
  | rdDesc0                    -- RD.DESC0, R65
  | rdDesc1                    -- RD.DESC1, R66
  | rdDesc2                    -- RD.DESC2, R67
  | rdClk                      -- RD.CLK, R68
  | rdCtrl                     -- RD.CTRL, R69
  | rdNone5                    -- RD.NONE at off 5, R70
  | rdNone6                    -- RD.NONE at off 6, R70
  | rdNone7                    -- RD.NONE at off 7, R70
  | wrDesc0 (v : Byte)         -- WR.DESC0, R71
  | wrDesc1 (v : Byte)         -- WR.DESC1, R72
  | wrDesc2 (v : Byte)         -- WR.DESC2, R73
  | wrClk (v : Byte)           -- WR.CLK, R74
  | wrCtrlStart (v : Byte)     -- WR.CTRL.START, R75
  | wrCtrlNop (v : Byte)       -- WR.CTRL.NOP, R76
  | wrNone5 (v : Byte)         -- WR.NONE at off 5, R77
  | wrNone6 (v : Byte)         -- WR.NONE at off 6, R77
  | wrNone7 (v : Byte)         -- WR.NONE at off 7, R77
  | xfer (d : Desc)            -- XFER, R91
  | xferLast (d : Desc)        -- XFER.LAST, R92
deriving DecidableEq, Repr, Inhabited

/-- The form an instruction is encoded in (R61). -/
def Instr.form : Instr → Form
  | .rdDesc0 => .pt
  | .rdDesc1 => .pt
  | .rdDesc2 => .pt
  | .rdClk => .pt
  | .rdCtrl => .pt
  | .rdNone5 => .pt
  | .rdNone6 => .pt
  | .rdNone7 => .pt
  | .wrDesc0 _ => .pt
  | .wrDesc1 _ => .pt
  | .wrDesc2 _ => .pt
  | .wrClk _ => .pt
  | .wrCtrlStart _ => .pt
  | .wrCtrlNop _ => .pt
  | .wrNone5 _ => .pt
  | .wrNone6 _ => .pt
  | .wrNone7 _ => .pt
  | .xfer _ => .desc
  | .xferLast _ => .desc

end Sys2Proof
end

