-- ==== Sys2Proof/Config.lean ====
section
/-! DEFINITION. The parameters of ZisaDMA (R7): the fixed ones, the OPEN ones (constants without a body), the read contracts of
other devices (functions without a body, applied to what has reached the device), and the free values the spec calls unspecified
(functions without a body, applied to a draw counter). -/

namespace Sys2Proof

/-- `MEM_SIZE`, 4 MiB of physical memory (R7, R36). -/
def Config.memSize : Nat := 0x400000

/-- `PAGE_SIZE`, 16 KiB (R7, R36). -/
def Config.pageSize : Nat := 0x4000

/-- `NUM_PAGES` (R7, R36). -/
def Config.numPages : Nat := 256

/-- `MAX_DEVICES`, device instances machine-wide (R7, R41). -/
def Config.maxDevices : Nat := 32

/-- `DESC_SIZE`, the bytes of a descriptor record (R7, R54). -/
def Config.descSize : Nat := 10

/-- `CLK_INIT`, the raw `clk` after init: rd_cycle = 1, wr_cycle = 1 (R7, R28). -/
def Config.clkInit : Byte := 0x11#8

/-- `CLK_RESET`, the raw `clk` after reset: rd_cycle = 6, wr_cycle = 5 (R7, R28). -/
def Config.clkReset : Byte := 0x56#8

/-- `DMA_IO_BASE`, the port of `desc_addr0`: OPEN, 0 to 251 (R7, R8, decision D1). Log entry 4. -/
opaque Config.dmaIoBase : Fin 252

/-- `IDLE_MEM_BYTE`, what an unbound memory page reads as: OPEN (R7, R39, decision D9). Log entry 4. -/
opaque Config.idleMemByte : Byte

/-- `IDLE_IO_BYTE`, what an unbound I/O port reads as: OPEN (R7, R40, decision D9). Log entry 4. -/
opaque Config.idleIoByte : Byte

/-- One access that reaches a device: at a page-relative offset (R38), or at an absolute port (R40). -/
inductive DeviceOp where
  | read (offset : BitVec 14)
  | write (offset : BitVec 14) (v : Byte)
  | portRead (port : Byte)
  | portWrite (port v : Byte)
deriving DecidableEq, Repr

/-- The read contract of the memory-mapped device number `dev` (R38, R45; a parameter, U15): what it answers at page-relative `offset`,
given every earlier access it got, the newest first. Log entry 5. -/
opaque Config.deviceByte (dev : Nat) (offset : BitVec 14) (past : List DeviceOp) : Byte

/-- The read contract of the I/O device number `dev` (R40, R45; a parameter, U15): what it answers at the absolute port, given every
earlier access it got, the newest first. Log entry 5. -/
opaque Config.portByte (dev : Nat) (port : Byte) (past : List DeviceOp) : Byte

/-- Free value: byte `i` of what `desc_buf` (0 to 9) and `data` (10) hold once the walker is IDLE again (R23, R28). Log entry 3. -/
opaque Config.idleWorkByte (i draw : Nat) : Byte

/-- Free value: what `k` holds once the walker is IDLE again (R23, R28). Log entry 3. -/
opaque Config.idleWorkIndex (draw : Nat) : BitVec 4

/-- Free value: what `rd_ptr` (0), `wr_ptr` (1) and `count` (2) hold once the walker is IDLE again (R23, R28). Log entry 3. -/
opaque Config.idleWorkAddr (i draw : Nat) : Addr

/-- Free value: what `rs` (0) and `ws` (1) hold once the walker is IDLE again (R23, R28). Log entry 3. -/
opaque Config.idleWorkStep (i draw : Nat) : StepMode

/-- Free value: what `last` holds once the walker is IDLE again (R23, R28). Log entry 3. -/
opaque Config.idleWorkLast (draw : Nat) : Bool

end Sys2Proof
end

