-- ==== Sys2Proof/WellFormed.lean ====
section
/-! DEFINITION. Well-formed instructions: those some encoding of the spec stands for. -/

namespace Sys2Proof

/-- An instruction is well formed when an encoding stands for it. The two control writes split one port by bit 0 of the
data byte (R61, R75, R76): WR.CTRL.START carries a byte with bit 0 set, WR.CTRL.NOP one with bit 0 clear. Every value of
every other operand is legal (R16, R18, R58, R59). -/
def Instr.wellFormed : Instr → Bool
  | .rdDesc0 => true
  | .rdDesc1 => true
  | .rdDesc2 => true
  | .rdClk => true
  | .rdCtrl => true
  | .rdNone5 => true
  | .rdNone6 => true
  | .rdNone7 => true
  | .wrDesc0 _ => true
  | .wrDesc1 _ => true
  | .wrDesc2 _ => true
  | .wrClk _ => true
  | .wrCtrlStart v => v.getLsbD 0
  | .wrCtrlNop v => !v.getLsbD 0
  | .wrNone5 _ => true
  | .wrNone6 _ => true
  | .wrNone7 _ => true
  | .xfer _ => true
  | .xferLast _ => true

end Sys2Proof
end

