-- ==== Sys2Proof/Decode.lean ====
section
/-! DEFINITION. The decoder, total on any bytes and rejecting by name, and after it the encoder, both written from the
encoding rules R52 to R57 and R61. -/

namespace Sys2Proof

/-! ## Fields -/

/-- Three little-endian bytes as one 24-bit value, `{b2, b1, b0}` (R30, R55). -/
def le24 (b0 b1 b2 : Byte) : BitVec 24 := b2 ++ b1 ++ b0

/-- Byte `i` (0, 1, 2) of a 24-bit value in little-endian order (R16, R30). -/
def byteOf (i : Nat) (a : BitVec 24) : Byte := a.extractLsb' (8 * i) 8

/-- The step mode a 2-bit field names (R57). -/
def StepMode.ofBits (m : BitVec 2) : StepMode :=
  match m.toNat with
  | 0 => .fixed
  | 1 => .increment
  | 2 => .decrement
  | _ => .reserved3

/-- The 2-bit field that names a step mode (R57). -/
def StepMode.toBits : StepMode → BitVec 2
  | .fixed => 0#2
  | .increment => 1#2
  | .decrement => 2#2
  | .reserved3 => 3#2

/-! ## Port transactions -/

/-- The 12-bit word of a port transaction: `W`, `off` and the data byte (R52). -/
def ptWord (w : BitVec 1) (off : BitVec 3) (data : Byte) : BitVec 12 := w ++ off ++ data

/-- The transaction a PT word stands for (R52, R61): `{W, off}` = bits 11 to 8 select the operation, bit 0 tells the two
control writes apart, and the data byte of a read is ignored. Every word is legal (R59). -/
def decodePT (w : BitVec 12) : Instr :=
  let v : Byte := w.extractLsb' 0 8
  match (w.extractLsb' 8 4).toNat with
  | 0 => .rdDesc0
  | 1 => .rdDesc1
  | 2 => .rdDesc2
  | 3 => .rdClk
  | 4 => .rdCtrl
  | 5 => .rdNone5
  | 6 => .rdNone6
  | 7 => .rdNone7
  | 8 => .wrDesc0 v
  | 9 => .wrDesc1 v
  | 10 => .wrDesc2 v
  | 11 => .wrClk v
  | 12 => if v.getLsbD 0 then .wrCtrlStart v else .wrCtrlNop v
  | 13 => .wrNone5 v
  | 14 => .wrNone6 v
  | _ => .wrNone7 v

/-! ## Descriptor records -/

/-- The fields of a record but for `is_last`, from its ten bytes (R54 to R57). -/
def recordDesc (b : Vector Byte 10) : Desc :=
  { readAddress := le24 b[0] b[1] b[2]
    writeAddress := le24 b[3] b[4] b[5]
    length := le24 b[6] b[7] b[8]
    readStep := StepMode.ofBits (b[9].extractLsb' 0 2)
    writeStep := StepMode.ofBits (b[9].extractLsb' 2 2)
    reserved := b[9].extractLsb' 5 3 }

/-- `is_last` of a record: bit 4 of its `flags` byte (R56). -/
def recordLast (b : Vector Byte 10) : Bool := b[9].getLsbD 4

/-- The instruction a record's ten bytes stand for (R61): `is_last` selects XFER or XFER.LAST. Every record is legal (R59). -/
def decodeDesc (b : Vector Byte 10) : Instr :=
  if recordLast b then .xferLast (recordDesc b) else .xfer (recordDesc b)

/-! ## Bytes -/

/-- Why a byte sequence is no encoding: it ends too early, or the four bits above a PT word are not zero. Neither comes
from the hardware, which has no illegal encoding (R59); both are about the byte layout this model gives a PT word (log
entry 6). -/
inductive DecodeError where
  | truncated
  | notATransaction
deriving DecidableEq, Repr

/-- Decodes one instruction of the form the interface tells (R61) from the front of a byte sequence, and gives the rest. A PT word
stands in two bytes, the low byte first (log entry 6); a record in ten (R54). -/
def decode : Form → List Byte → Except DecodeError (Instr × List Byte)
  | .pt, lo :: hi :: rest =>
      if hi.extractLsb' 4 4 = 0#4 then .ok (decodePT (hi.extractLsb' 0 4 ++ lo), rest) else .error .notATransaction
  | .desc, b0 :: b1 :: b2 :: b3 :: b4 :: b5 :: b6 :: b7 :: b8 :: b9 :: rest =>
      .ok (decodeDesc #v[b0, b1, b2, b3, b4, b5, b6, b7, b8, b9], rest)
  | _, _ => .error .truncated

/-! ## The encoder -/

/-- The `flags` byte (R56): reserved bits, `is_last`, `write_step`, `read_step` from the top down. -/
def flagsByte (d : Desc) (last : Bool) : Byte :=
  d.reserved ++ BitVec.ofBool last ++ d.writeStep.toBits ++ d.readStep.toBits

/-- The ten bytes of a record (R54). -/
def descBytes (d : Desc) (last : Bool) : Vector Byte 10 :=
  #v[byteOf 0 d.readAddress, byteOf 1 d.readAddress, byteOf 2 d.readAddress,
     byteOf 0 d.writeAddress, byteOf 1 d.writeAddress, byteOf 2 d.writeAddress,
     byteOf 0 d.length, byteOf 1 d.length, byteOf 2 d.length,
     flagsByte d last]

/-- The two bytes of a PT word, the low byte first (log entry 6). -/
def ptBytes (w : BitVec 12) : List Byte := [w.extractLsb' 0 8, 0#4 ++ w.extractLsb' 8 4]

/-- The bytes of an instruction (R52, R54, R61); a read's data byte is written as 0 (R52). -/
def encode : Instr → List Byte
  | .rdDesc0 => ptBytes (ptWord 0#1 0#3 0#8)
  | .rdDesc1 => ptBytes (ptWord 0#1 1#3 0#8)
  | .rdDesc2 => ptBytes (ptWord 0#1 2#3 0#8)
  | .rdClk => ptBytes (ptWord 0#1 3#3 0#8)
  | .rdCtrl => ptBytes (ptWord 0#1 4#3 0#8)
  | .rdNone5 => ptBytes (ptWord 0#1 5#3 0#8)
  | .rdNone6 => ptBytes (ptWord 0#1 6#3 0#8)
  | .rdNone7 => ptBytes (ptWord 0#1 7#3 0#8)
  | .wrDesc0 v => ptBytes (ptWord 1#1 0#3 v)
  | .wrDesc1 v => ptBytes (ptWord 1#1 1#3 v)
  | .wrDesc2 v => ptBytes (ptWord 1#1 2#3 v)
  | .wrClk v => ptBytes (ptWord 1#1 3#3 v)
  | .wrCtrlStart v => ptBytes (ptWord 1#1 4#3 v)
  | .wrCtrlNop v => ptBytes (ptWord 1#1 4#3 v)
  | .wrNone5 v => ptBytes (ptWord 1#1 5#3 v)
  | .wrNone6 v => ptBytes (ptWord 1#1 6#3 v)
  | .wrNone7 v => ptBytes (ptWord 1#1 7#3 v)
  | .xfer d => (descBytes d false).toList
  | .xferLast d => (descBytes d true).toList

/-! ## The opcode table's numbering -/

/-- The lowest `n` bytes of a number, the least significant first. -/
def bytesOf : Nat → Nat → List Byte
  | 0, _ => []
  | n + 1, w => BitVec.ofNat 8 w :: bytesOf n (w / 256)

/-- The little-endian value of a byte sequence, `sum(b_i << 8*i)` (R55). -/
def wordOf : List Byte → Nat
  | [] => 0
  | b :: bs => b.toNat + 256 * wordOf bs

/-- The form of an opcode-table row from its width: 12 bits, two whole bytes, for PT and 80 bits for DESC. -/
def formOfBits (nbits : Nat) : Form := if nbits ≤ 16 then .pt else .desc

/-- The bytes an instruction of one form takes. -/
def Form.size : Form → Nat
  | .pt => 2
  | .desc => Config.descSize

/-- What the decoder reads from the instruction whose bits are `w`, numbered as spec/opcode_table.json numbers them; none
where the decoder refuses or where `w` has a bit above the form. -/
def decodeTableWord (nbits w : Nat) : Option Instr :=
  let f := formOfBits nbits
  if w < 2 ^ (8 * f.size) then
    match decode f (bytesOf f.size w) with
    | .ok (i, _) => some i
    | .error _ => none
  else none

/-- The mask and the pattern of a row of spec/opcode_table.json. -/
structure OpRow where
  form    : Form
  mask    : Nat
  pattern : Nat
deriving DecidableEq, Repr

/-- The opcode-table row of an instruction. -/
def opRow : Instr → OpRow
  | .rdDesc0 => ⟨.pt, 0xF00, 0x000⟩
  | .rdDesc1 => ⟨.pt, 0xF00, 0x100⟩
  | .rdDesc2 => ⟨.pt, 0xF00, 0x200⟩
  | .rdClk => ⟨.pt, 0xF00, 0x300⟩
  | .rdCtrl => ⟨.pt, 0xF00, 0x400⟩
  | .rdNone5 => ⟨.pt, 0xF00, 0x500⟩
  | .rdNone6 => ⟨.pt, 0xF00, 0x600⟩
  | .rdNone7 => ⟨.pt, 0xF00, 0x700⟩
  | .wrDesc0 _ => ⟨.pt, 0xF00, 0x800⟩
  | .wrDesc1 _ => ⟨.pt, 0xF00, 0x900⟩
  | .wrDesc2 _ => ⟨.pt, 0xF00, 0xA00⟩
  | .wrClk _ => ⟨.pt, 0xF00, 0xB00⟩
  | .wrCtrlStart _ => ⟨.pt, 0xF01, 0xC01⟩
  | .wrCtrlNop _ => ⟨.pt, 0xF01, 0xC00⟩
  | .wrNone5 _ => ⟨.pt, 0xF00, 0xD00⟩
  | .wrNone6 _ => ⟨.pt, 0xF00, 0xE00⟩
  | .wrNone7 _ => ⟨.pt, 0xF00, 0xF00⟩
  | .xfer _ => ⟨.desc, 0x10000000000000000000, 0x00000000000000000000⟩
  | .xferLast _ => ⟨.desc, 0x10000000000000000000, 0x10000000000000000000⟩

end Sys2Proof
end

