-- ==== Sys2Proof/Machine/State.lean ====
section
/-! DEFINITION. The state of the machine as plain data: the engine (registers, walker, working registers), the environment
it masters (address-space map, RAM, what has reached other devices) and the model's own records (bus trace, input queue, replies,
draw counter, pace). Also the
outcomes' reasons and the state after reset. -/

namespace Sys2Proof.Machine

/-! ## The engine -/

/-- The walker's `state` (R24). BUSY is any value but `idle`. FETCH(k) names its index as the spec's value does; the register `k` of R23 is
`Work.k`, which holds the same index there (a clause of `State.Inv`). -/
inductive Walker where
  | idle
  | fetch (k : Fin 10)
  | copyRd
  | copyWr
  | advance
deriving DecidableEq, Repr, Inhabited

/-- The walker's hidden working registers (R23). No port reads or writes them; what they hold in IDLE is unspecified. -/
structure Work where
  descBuf : Vector Byte 10     -- `desc_buf[0..9]`
  k       : BitVec 4           -- `k`, the fetch index
  rdPtr   : Addr               -- `rd_ptr`
  wrPtr   : Addr               -- `wr_ptr`
  count   : BitVec 24          -- `count`
  rs      : StepMode           -- `rs`
  ws      : StepMode           -- `ws`
  last    : Bool               -- `last`
  data    : Byte               -- `data`
deriving DecidableEq, Repr

/-! ## The environment -/

/-- Whether a device is a RAM (R44) or one whose contract the spec does not give (R5, R38). A device's kind counts in memory pages only:
at an I/O port even a RAM answers by an unknown contract (log entry 15, DESIGN CHOICE). -/
inductive DeviceKind where
  | ram
  | external
deriving DecidableEq, Repr, Inhabited

/-- One device bound in the machine besides the engine: its number among the device instances (R41) and its kind (log entry 15). -/
structure Device where
  id   : Nat
  kind : DeviceKind
deriving DecidableEq, Repr, Inhabited

/-- A device bound to contiguous memory pages: the first page (`page_start`), how many, and the device (R36). -/
structure MemBinding where
  pageFrom : Nat
  pages    : Nat
  device   : Device
deriving DecidableEq, Repr

/-- A device bound to one I/O port (R36, R41). -/
structure IoBinding where
  port   : Byte
  device : Device
deriving DecidableEq, Repr

/-- How the machine was assembled (R41): the OPEN parameters of R7 and what is bound where, the engine's own five ports apart
(they follow from `ioBase`, R42). No step changes it. -/
structure Platform where
  ioBase  : Fin 252            -- `DMA_IO_BASE`
  idleMem : Byte               -- `IDLE_MEM_BYTE`
  idleIo  : Byte               -- `IDLE_IO_BYTE`
  memMap  : List MemBinding    -- `mem_mapping`, as the regions bound
  ioMap   : List IoBinding     -- `io_mapping`, but for the engine's ports
deriving DecidableEq, Repr

/-- The bytes RAM pages hold, keyed by physical address (R37, R44), in one canonical form (`Memory.wf`). -/
abbrev Memory := List Host.Cell

/-- One access that reached a device other than a RAM page or the engine, and which device (R35, R38, R40). -/
structure DeviceAccess where
  dev : Nat
  op  : DeviceOp
deriving DecidableEq, Repr

/-- What a memory page resolves to: nothing, a RAM page, or a page of the external device with that number (R38, R39). -/
inductive Slot where
  | unbound
  | ram
  | external (dev : Nat)
deriving DecidableEq, Repr

/-- What an I/O port resolves to: the engine's register at an offset (R42), an external device, or nothing (R40). -/
inductive Port where
  | engine (off : BitVec 3)
  | external (dev : Nat)
  | unbound
deriving DecidableEq, Repr

/-! ## The records around the engine -/

/-- One master operation of the engine: `R(a)` with the byte it returned, or `W(a, v)` (R11, R82; log entry 10). -/
inductive BusOp where
  | read (a : Addr) (v : Byte)
  | write (a : Addr) (v : Byte)
deriving DecidableEq, Repr

/-- What the outside may do to the machine while the engine is IDLE (R6, R106, R108; log entry 12). -/
inductive Event where
  | pt (w : BitVec 12)           -- a port transaction delivered to the engine, as a PT word (R52)
  | ioRead (port : Byte)         -- the requester's `IoRead` of an absolute port (R40)
  | ioWrite (port v : Byte)      -- the requester's `IoWrite` to an absolute port (R40)
  | memRead (a : Addr)           -- the requester reads a byte of the memory space (R46)
  | memWrite (a : Addr) (v : Byte) -- the requester writes a byte of the memory space (R46, R123)
  | init                         -- power-on (R116)
  | reset                        -- soft reset (R117)
deriving DecidableEq, Repr

/-- What the requester sees of an access: the byte a read returned, or that a write completed (R64, R89). -/
inductive Reply where
  | data (v : Byte)
  | done
deriving DecidableEq, Repr

/-- How much of a BUSY walker's work one step of the machine does (log entry 1). The spec writes a transfer down twice, as steps of at most
one bus operation (R80 to R89) and as an algorithm record by record (R79); from reset every run is of the first kind, and no step changes
the pace. -/
inductive Pace where
  | byBusOperation   -- a step of the machine is a step of the engine (R81)
  | byRecord         -- at FETCH(0) a step of the machine is a whole record (R79)
deriving DecidableEq, Repr, Inhabited

/-! ## Outcomes -/

/-- Why the machine stops with a fault: never. ZisaDMA raises no exception and has no cause codes (R103), and its one failure is a
hang, which is an infinite run (R104). There is no constructor, so nothing raises one (safe). -/
inductive Fault where
deriving DecidableEq, Repr

/-- Why a step has no meaning. -/
inductive Refusal where
  /-- Raised only by an arm of `exec` whose instruction has no meaning yet; no arm is left so (safe). -/
  | notModelled (mnemonic : String)
deriving DecidableEq, Repr

/-! ## The state -/

/-- The machine: the engine's state (R15 to R25), its environment (R36 to R44) and the model's own records. -/
structure State where
  descAddr : Addr              -- `desc_addr`, the walker's program counter (R16, R17)
  clk      : Byte              -- `clk`, raw (R18)
  walker   : Walker            -- `state` (R24)
  pending  : Bool              -- `pending` (R25)
  work     : Work              -- the working registers (R23)
  plat     : Platform          -- how the machine was assembled (R7, R36, R41)
  ram      : Memory            -- what the RAM pages hold (R44)
  devLog   : List DeviceAccess -- what has reached the other devices, on which their answers depend, the newest first (R38, R40, R45)
  trace    : List BusOp        -- the model's own: the engine's master operations so far, the newest first (R82)
  inputs   : List Event        -- the model's own: what the outside has yet to do, the next first (R6, R108)
  replies  : List Reply        -- the model's own: what the requester has been answered, the newest first (R64, R89)
  draws    : Nat               -- the model's own: how many times free values have been drawn
  pace     : Pace              -- the model's own: how much one step of a BUSY machine does
deriving DecidableEq, Repr

/-- The working registers right after init. The spec gives no value (R28): log entry 2, DESIGN CHOICE, zero. -/
def Work.reset : Work :=
  { descBuf := #v[0, 0, 0, 0, 0, 0, 0, 0, 0, 0], k := 0, rdPtr := 0, wrPtr := 0, count := 0
    rs := .fixed, ws := .fixed, last := false, data := 0 }

/-- The machine that stands in `State.reset`: the OPEN parameters at their constants of Config, and one RAM device bound to
all 256 pages (log entry 7, DESIGN CHOICE: the spec names no binding but the engine's own ports). -/
def Platform.reset : Platform :=
  { ioBase := Config.dmaIoBase, idleMem := Config.idleMemByte, idleIo := Config.idleIoByte
    memMap := [⟨0, 256, ⟨1, .ram⟩⟩], ioMap := [] }

/-- The machine right after power-on, that is after `init` alone (R28, R116, R119): `desc_addr` = 0, `clk` = 0x11, IDLE, nothing
pending, no memory listed. -/
def State.reset : State :=
  { descAddr := 0, clk := Config.clkInit, walker := .idle, pending := false, work := Work.reset
    plat := Platform.reset, ram := [], devLog := [], trace := [], inputs := [], replies := [], draws := 0, pace := .byBusOperation }

end Sys2Proof.Machine
end

