-- ==== Sys2Proof/Machine/Memory.lean ====
section
/-! DEFINITION. The bytes RAM pages hold: a list of address and byte pairs in one canonical form. -/

namespace Sys2Proof.Machine

/-- What a RAM byte that nothing has written reads as: 0x00, the premise of the spec's vectors (log entry 8). -/
def Memory.blank : Byte := 0#8

/-- The byte at physical address `a` (R44). -/
def Memory.read : Memory → Nat → Byte
  | [], _ => Memory.blank
  | (k, v) :: m, a => if k = a then v else Memory.read m a

/-- Puts a byte at its place among rising addresses, over the one that stood there. -/
def Memory.insert (a : Nat) (v : Byte) : Memory → Memory
  | [] => [(a, v)]
  | (k, u) :: m => if a < k then (a, v) :: (k, u) :: m else if k = a then (a, v) :: m else (k, u) :: Memory.insert a v m

/-- Takes an address out of the list. -/
def Memory.erase (a : Nat) : Memory → Memory
  | [] => []
  | (k, u) :: m => if k = a then m else (k, u) :: Memory.erase a m

/-- Stores a byte (R44). Storing what an unlisted address reads as removes the entry, so that equal memories are equal lists. -/
def Memory.write (m : Memory) (a : Nat) (v : Byte) : Memory :=
  if v = Memory.blank then Memory.erase a m else Memory.insert a v m

/-- The canonical form above a bound: addresses rise from `lo` on, stay below `MEM_SIZE`, and no entry holds the blank byte. -/
def Memory.wfFrom (lo : Nat) : Memory → Bool
  | [] => true
  | (k, v) :: m => decide (lo ≤ k) && decide (k < Config.memSize) && decide (v ≠ Memory.blank) && Memory.wfFrom (k + 1) m

/-- The canonical form: addresses strictly rising inside physical memory, no entry equal to the blank byte. -/
def Memory.wf (m : Memory) : Bool := Memory.wfFrom 0 m

end Sys2Proof.Machine
end

