-- ==== Sys2Proof/Machine/Ops.lean ====
section
/-! DEFINITION. The named operations over registers, the address-space map and the bus. There is no operation for taking
an exception: ZisaDMA has none (R103, R109). -/

namespace Sys2Proof.Machine

/-! ## One setter per field -/

def State.setDescAddr (a : Addr) (s : State) : State := { s with descAddr := a }
def State.setClk (v : Byte) (s : State) : State := { s with clk := v }
def State.setWalker (w : Walker) (s : State) : State := { s with walker := w }
def State.setPending (b : Bool) (s : State) : State := { s with pending := b }
def State.setWork (w : Work) (s : State) : State := { s with work := w }
def State.setPlat (p : Platform) (s : State) : State := { s with plat := p }
def State.setRam (m : Memory) (s : State) : State := { s with ram := m }
def State.setInputs (es : List Event) (s : State) : State := { s with inputs := es }
def State.setPace (p : Pace) (s : State) : State := { s with pace := p }

/-- Advances the draw counter past the free values drawn at its present value. -/
def State.drawn (s : State) : State := { s with draws := s.draws + 1 }

/-- Records a master operation of the engine (R82). -/
def State.log (op : BusOp) (s : State) : State := { s with trace := op :: s.trace }

/-- Delivers an access to a device: exactly one entry (R35). -/
def State.logDevice (dev : Nat) (op : DeviceOp) (s : State) : State := { s with devLog := ⟨dev, op⟩ :: s.devLog }

/-- Every access a device has got, the newest first. -/
def State.devicePast (dev : Nat) (s : State) : List DeviceOp := (s.devLog.filter (fun x => x.dev = dev)).map (·.op)

/-- Answers the requester (R64). -/
def State.reply (r : Reply) (s : State) : State := { s with replies := r :: s.replies }

/-! ## Address resolution -/

/-- `phys = a24[21:0]`: an address at or above 4 MiB names the address modulo 2^22 (R37). -/
def physOf (a : Addr) : BitVec 22 := a.extractLsb' 0 22

/-- `page = phys[21:14]` (R37). -/
def pageOf (a : Addr) : BitVec 8 := (physOf a).extractLsb' 14 8

/-- `offset = phys[13:0]`, page-relative (R37, conflict C2). -/
def offsetOf (a : Addr) : BitVec 14 := (physOf a).extractLsb' 0 14

/-- Whether a binding takes a page. -/
def MemBinding.covers (b : MemBinding) (page : Nat) : Bool := decide (b.pageFrom ≤ page) && decide (page < b.pageFrom + b.pages)

/-- The map entry of a page slot, `mem_mapping[page]`: absent for an unbound page (R36, R37). -/
def Platform.entry (p : Platform) (page : Nat) : Option MemBinding := p.memMap.find? (·.covers page)

/-- What a device is to an access that reaches it. -/
def Device.slot (d : Device) : Slot :=
  match d.kind with
  | .ram => .ram
  | .external => .external d.id

/-- What the page of an address resolves to (R37 to R39). -/
def Platform.slot (p : Platform) (a : Addr) : Slot :=
  match p.entry (pageOf a).toNat with
  | some b => b.device.slot
  | none => .unbound

/-- What an I/O port resolves to (R40, R42): the engine's five ports follow from `DMA_IO_BASE`; any other port is looked up.
A device of kind `ram` bound to a port is as external as any other there: the spec defines a RAM for pages only (log entry 15, DESIGN
CHOICE). -/
def Platform.route (p : Platform) (port : Byte) : Port :=
  if p.ioBase.val ≤ port.toNat ∧ port.toNat ≤ p.ioBase.val + 4 then
    .engine (BitVec.ofNat 3 (port.toNat - p.ioBase.val))
  else
    match p.ioMap.find? (fun b => b.port = port) with
    | some b => .external b.device.id
    | none => .unbound

/-! ## Single-byte accesses of the memory space, by any agent -/

/-- The byte a read at `a` returns (R38, R39): the RAM's byte, `IDLE_MEM_BYTE`, or what the device answers
after every earlier access it got (R45; log entry 5). -/
def busValue (a : Addr) (s : State) : Byte :=
  match s.plat.slot a with
  | .unbound => s.plat.idleMem
  | .ram => s.ram.read (physOf a).toNat
  | .external dev => Config.deviceByte dev (offsetOf a) (s.devicePast dev)

/-- The state after a read at `a` (R35, R38): an external device has got the access, any other read leaves the environment as it is. -/
def afterRead (a : Addr) (s : State) : State :=
  match s.plat.slot a with
  | .unbound => s
  | .ram => s
  | .external dev => s.logDevice dev (.read (offsetOf a))

/-- The state after a byte is written at `a` (R38, R39, R44): an unbound page ignores it, and an external device has got it, which any
later answer of it may depend on but no byte of RAM does (log entry 5). -/
def busWrite (a : Addr) (v : Byte) (s : State) : State :=
  match s.plat.slot a with
  | .unbound => s
  | .ram => s.setRam (s.ram.write (physOf a).toNat v)
  | .external dev => s.logDevice dev (.write (offsetOf a) v)

/-- The RAM byte under an address, for statements about RAM pages. -/
def State.peek (s : State) (a : Addr) : Byte := s.ram.read (physOf a).toNat

/-- Whether an address lies in a RAM page (R44). -/
def State.isRam (s : State) (a : Addr) : Bool := decide (s.plat.slot a = .ram)

/-! ## The engine's master accesses -/

/-- The state after `MemRead(a, 1)` by the engine, which returns `busValue a s` (R11, R33). -/
def masterRead (a : Addr) (s : State) : State := (afterRead a s).log (.read a (busValue a s))

/-- The state after `MemWrite(a, 1, v)` by the engine (R11, R33). -/
def masterWrite (a : Addr) (v : Byte) (s : State) : State := (busWrite a v s).log (.write a v)

/-! ## Registers -/

/-- `{desc_addr[23:8], v}` (R71). -/
def withByte0 (a : Addr) (v : Byte) : Addr := a.extractLsb' 8 16 ++ v

/-- `{desc_addr[23:16], v, desc_addr[7:0]}` (R72). -/
def withByte1 (a : Addr) (v : Byte) : Addr := a.extractLsb' 16 8 ++ v ++ a.extractLsb' 0 8

/-- `{v, desc_addr[15:0]}` (R73). -/
def withByte2 (a : Addr) (v : Byte) : Addr := v ++ a.extractLsb' 0 16

/-- `rd_cycle` = `clk[3:0]` (R18). -/
def State.rdCycle (s : State) : BitVec 4 := s.clk.extractLsb' 0 4

/-- `wr_cycle` = `clk[7:4]` (R18). -/
def State.wrCycle (s : State) : BitVec 4 := s.clk.extractLsb' 4 4

/-- The working registers with the free values of one draw (R23, R28; log entry 3). -/
def Work.free (n : Nat) : Work :=
  { descBuf := #v[Config.idleWorkByte 0 n, Config.idleWorkByte 1 n, Config.idleWorkByte 2 n, Config.idleWorkByte 3 n,
      Config.idleWorkByte 4 n, Config.idleWorkByte 5 n, Config.idleWorkByte 6 n, Config.idleWorkByte 7 n,
      Config.idleWorkByte 8 n, Config.idleWorkByte 9 n]
    k := Config.idleWorkIndex n
    rdPtr := Config.idleWorkAddr 0 n, wrPtr := Config.idleWorkAddr 1 n, count := Config.idleWorkAddr 2 n
    rs := Config.idleWorkStep 0 n, ws := Config.idleWorkStep 1 n, last := Config.idleWorkLast n
    data := Config.idleWorkByte 10 n }

/-- Leaves the working registers unspecified, as they are in IDLE (R23). -/
def State.forgetWork (s : State) : State := (s.setWork (Work.free s.draws)).drawn

/-! ## The slave port -/

/-- One register read of the slave port (R64): it returns `v` and changes nothing else. While BUSY it does not complete (R27). -/
def portRead (v : Byte) (s : State) : Host.Outcome State Fault Refusal :=
  match s.walker with
  | .idle => .next (s.reply (.data v))
  | .fetch _ => .next s
  | .copyRd => .next s
  | .copyWr => .next s
  | .advance => .next s

/-- One register write of the slave port (R64): it changes the state by `f` and completes. While BUSY it does not complete (R27). -/
def portWrite (f : State → State) (s : State) : Host.Outcome State Fault Refusal :=
  match s.walker with
  | .idle => .next ((f s).reply .done)
  | .fetch _ => .next s
  | .copyRd => .next s
  | .copyWr => .next s
  | .advance => .next s

end Sys2Proof.Machine
end

