-- ==== Sys2Proof/Machine/Operands.lean ====
section
/-! DEFINITION. The operands of a descriptor: the step modes, the latch of the record's fields, and the byte-serial copy. -/

namespace Sys2Proof.Machine

/-- `step(a, m)` (R93): FIXED keeps the counter (R94), INCREMENT adds 1 modulo 2^24 (R95), DECREMENT subtracts 1 modulo 2^24
(R96), and the reserved mode keeps it (R97). -/
def stepAddr (m : StepMode) (a : Addr) : Addr :=
  match m with
  | .fixed => a
  | .increment => a + 1#24
  | .decrement => a - 1#24
  | .reserved3 => a

/-- The register updates of DECODE (R84): the record's fields, latched until its ADVANCE (R85). -/
def latch (d : Desc) (last : Bool) (s : State) : State :=
  s.setWork { s.work with
    rdPtr := d.readAddress, wrPtr := d.writeAddress, count := d.length
    rs := d.readStep, ws := d.writeStep, last := last }

/-- What the fetch index is after FETCH(k): the next one, and after the last it stays, since no rule changes it before the next record
(R23, R83; log entry 3). -/
def nextIndex (k : Fin 10) : BitVec 4 := if k.val < 9 then BitVec.ofNat 4 (k.val + 1) else 9#4

/-- The bus read and the register updates of FETCH(k) (R83). -/
def fetchByte (k : Fin 10) (s : State) : State :=
  let a := s.descAddr + BitVec.ofNat 24 k.val
  let v := busValue a s
  let s := masterRead a s
  s.setWork { s.work with descBuf := s.work.descBuf.set k v, k := nextIndex k }

/-- The first `n` fetch reads of a record, ascending (R82, R83). -/
def fetchBytes : Nat → State → State
  | 0, s => s
  | n + 1, s => fetchByte (Fin.ofNat 10 n) (fetchBytes n s)

/-- The ten fetch reads of one record (R82, R83). -/
def fetchRecord (s : State) : State := fetchBytes Config.descSize s

/-- The bus read and the register update of COPY_RD (R86). -/
def copyRead (s : State) : State :=
  let v := busValue s.work.rdPtr s
  let s := masterRead s.work.rdPtr s
  s.setWork { s.work with data := v }

/-- The bus write and the register updates of COPY_WR (R87): both counters step, each by its own mode, and `count` falls by 1. -/
def copyWrite (s : State) : State :=
  let s := masterWrite s.work.wrPtr s.work.data s
  s.setWork { s.work with
    rdPtr := stepAddr s.work.rs s.work.rdPtr
    wrPtr := stepAddr s.work.ws s.work.wrPtr
    count := s.work.count - 1#24 }

/-- One byte copied: read, then written, before the next is read (R82, R100). -/
def copyByte (s : State) : State := copyWrite (copyRead s)

/-- `n` bytes copied, one after the other (R79 step 2). -/
def copyBytes : Nat → State → State
  | 0, s => s
  | n + 1, s => copyBytes n (copyByte s)

/-- `desc_addr <- desc_addr +_24 DESC_SIZE` (R88, R99). -/
def bumpDescAddr (s : State) : State := s.setDescAddr (s.descAddr + BitVec.ofNat 24 Config.descSize)

end Sys2Proof.Machine
end

