-- ==== Sys2Proof/Machine/Flags.lean ====
section
/-! DEFINITION. The status of the engine. ZisaDMA has no flag that software can read (R22); its status is the hidden walker
state and `pending` (R24, R25), and these are the operations that change them. -/

namespace Sys2Proof.Machine

/-- BUSY: any walker state but IDLE (R24). -/
def State.busy (s : State) : Bool :=
  match s.walker with
  | .idle => false
  | .fetch _ => true
  | .copyRd => true
  | .copyWr => true
  | .advance => true

/-- The walker goes to FETCH(0), and `k` is 0: for the next record of the chain (R88), or for the first (R80). -/
def nextRecord (s : State) : State := (s.setWork { s.work with k := 0#4 }).setWalker (.fetch 0)

/-- START (R75, R80): the write is outstanding and the walker begins at FETCH(0). -/
def startTransfer (s : State) : State := nextRecord (s.setPending true)

/-- Completion (R89): the walker returns to IDLE and the outstanding start write completes. What the working registers hold
from here on is unspecified (R23). -/
def complete (s : State) : State := ((((s.setWalker .idle).setPending false).forgetWork)).reply .done

end Sys2Proof.Machine
end

