-- ==== Sys2Proof/Machine/Port.lean ====
section
/-! DEFINITION. The register-port operations (format PT): the reads R65 to R70 and the writes R71 to R77. -/

namespace Sys2Proof.Machine

/-- RD.DESC0 (R65): returns `desc_addr[7:0]`. -/
def execRdDesc0 (s : State) : Host.Outcome State Fault Refusal := portRead (byteOf 0 s.descAddr) s

/-- RD.DESC1 (R66): returns `desc_addr[15:8]`. -/
def execRdDesc1 (s : State) : Host.Outcome State Fault Refusal := portRead (byteOf 1 s.descAddr) s

/-- RD.DESC2 (R67): returns `desc_addr[23:16]`, all eight bits. -/
def execRdDesc2 (s : State) : Host.Outcome State Fault Refusal := portRead (byteOf 2 s.descAddr) s

/-- RD.CLK (R68): returns the raw `clk`. -/
def execRdClk (s : State) : Host.Outcome State Fault Refusal := portRead s.clk s

/-- RD.CTRL (R69): returns 0x00, and starts nothing. -/
def execRdCtrl (s : State) : Host.Outcome State Fault Refusal := portRead 0x00#8 s

/-- RD.NONE at off 5 (R70): returns 0x00. -/
def execRdNone5 (s : State) : Host.Outcome State Fault Refusal := portRead 0x00#8 s

/-- RD.NONE at off 6 (R70): returns 0x00. -/
def execRdNone6 (s : State) : Host.Outcome State Fault Refusal := portRead 0x00#8 s

/-- RD.NONE at off 7 (R70): returns 0x00. -/
def execRdNone7 (s : State) : Host.Outcome State Fault Refusal := portRead 0x00#8 s

/-- WR.DESC0 (R71): `desc_addr <- {desc_addr[23:8], v}`, at once (R78). -/
def execWrDesc0 (v : Byte) (s : State) : Host.Outcome State Fault Refusal :=
  portWrite (fun s => s.setDescAddr (withByte0 s.descAddr v)) s

/-- WR.DESC1 (R72): `desc_addr <- {desc_addr[23:16], v, desc_addr[7:0]}`. -/
def execWrDesc1 (v : Byte) (s : State) : Host.Outcome State Fault Refusal :=
  portWrite (fun s => s.setDescAddr (withByte1 s.descAddr v)) s

/-- WR.DESC2 (R73): `desc_addr <- {v, desc_addr[15:0]}`, bits 7:6 of `v` stored as written. -/
def execWrDesc2 (v : Byte) (s : State) : Host.Outcome State Fault Refusal :=
  portWrite (fun s => s.setDescAddr (withByte2 s.descAddr v)) s

/-- WR.CLK (R74): `clk <- v`, every value stored. -/
def execWrClk (v : Byte) (s : State) : Host.Outcome State Fault Refusal := portWrite (State.setClk v) s

/-- WR.CTRL.START (R75): starts a transfer and stays outstanding, so nothing is answered yet; `v[7:1]` is ignored. While BUSY
no second start is accepted (R27). -/
def execWrCtrlStart (_v : Byte) (s : State) : Host.Outcome State Fault Refusal :=
  match s.walker with
  | .idle => .next (startTransfer s)
  | .fetch _ => .next s
  | .copyRd => .next s
  | .copyWr => .next s
  | .advance => .next s

/-- WR.CTRL.NOP (R76): no effect but that the write completes. -/
def execWrCtrlNop (_v : Byte) (s : State) : Host.Outcome State Fault Refusal := portWrite id s

/-- WR.NONE at off 5 (R77): no effect but that the write completes. -/
def execWrNone5 (_v : Byte) (s : State) : Host.Outcome State Fault Refusal := portWrite id s

/-- WR.NONE at off 6 (R77): no effect but that the write completes. -/
def execWrNone6 (_v : Byte) (s : State) : Host.Outcome State Fault Refusal := portWrite id s

/-- WR.NONE at off 7 (R77): no effect but that the write completes. -/
def execWrNone7 (_v : Byte) (s : State) : Host.Outcome State Fault Refusal := portWrite id s

end Sys2Proof.Machine
end

