-- ==== Sys2Proof/Machine/Xfer.lean ====
section
/-! DEFINITION. The descriptor instructions (format DESC), from the decode of a fetched record to its end: R91 and R92, whose
common part is steps 2 and 3 of the source's algorithm (R79). -/

namespace Sys2Proof.Machine

/-- What XFER and XFER.LAST have in common (R79 steps 2 and 3, R91): the fields latched, `length` bytes copied one by one, and
`desc_addr` moved past the record. -/
def runRecord (d : Desc) (last : Bool) (s : State) : State :=
  bumpDescAddr (copyBytes d.length.toNat (latch d last s))

/-- XFER (R91): copies, advances, and goes on to fetch the next record. Only a BUSY walker executes a record (log entry 11). -/
def execXfer (d : Desc) (s : State) : Host.Outcome State Fault Refusal :=
  if s.busy then .next (nextRecord (runRecord d false s)) else .next s

/-- XFER.LAST (R92): copies, advances, and completes the transfer. Only a BUSY walker executes a record (log entry 11). -/
def execXferLast (d : Desc) (s : State) : Host.Outcome State Fault Refusal :=
  if s.busy then .next (complete (runRecord d true s)) else .next s

end Sys2Proof.Machine
end

