-- ==== Sys2Proof/Machine/Dispatch.lean ====
section
/-! DEFINITION. One arm per instruction, each one direct call of its meaning. -/

namespace Sys2Proof.Machine

def exec (i : Instr) (s : State) : Host.Outcome State Fault Refusal :=
  match i with
  | .rdDesc0 => Sys2Proof.Machine.execRdDesc0 s
  | .rdDesc1 => Sys2Proof.Machine.execRdDesc1 s
  | .rdDesc2 => Sys2Proof.Machine.execRdDesc2 s
  | .rdClk => Sys2Proof.Machine.execRdClk s
  | .rdCtrl => Sys2Proof.Machine.execRdCtrl s
  | .rdNone5 => Sys2Proof.Machine.execRdNone5 s
  | .rdNone6 => Sys2Proof.Machine.execRdNone6 s
  | .rdNone7 => Sys2Proof.Machine.execRdNone7 s
  | .wrDesc0 v => Sys2Proof.Machine.execWrDesc0 v s
  | .wrDesc1 v => Sys2Proof.Machine.execWrDesc1 v s
  | .wrDesc2 v => Sys2Proof.Machine.execWrDesc2 v s
  | .wrClk v => Sys2Proof.Machine.execWrClk v s
  | .wrCtrlStart v => Sys2Proof.Machine.execWrCtrlStart v s
  | .wrCtrlNop v => Sys2Proof.Machine.execWrCtrlNop v s
  | .wrNone5 v => Sys2Proof.Machine.execWrNone5 v s
  | .wrNone6 v => Sys2Proof.Machine.execWrNone6 v s
  | .wrNone7 v => Sys2Proof.Machine.execWrNone7 v s
  | .xfer d => Sys2Proof.Machine.execXfer d s
  | .xferLast d => Sys2Proof.Machine.execXferLast d s

end Sys2Proof.Machine
end

