-- ==== Sys2Proof/Machine/Requester.lean ====
section
/-! DEFINITION. What the outside does to the machine while the engine is IDLE: the requester's accesses and the init and reset
events (R6, R106, R108), each handled completely before the next. -/

namespace Sys2Proof.Machine

/-- Init, the power-on event (R116): every piece of engine state to its "after init" value (R28), and nothing outside the
engine (R121). -/
def initEvent (s : State) : State :=
  ((((s.setDescAddr 0#24).setClk Config.clkInit).setWalker .idle).setPending false).forgetWork

/-- Reset, the soft-reset event (R117): `clk` = 0x56, `desc_addr` as it was, and nothing outside the engine (R121). -/
def resetEvent (s : State) : State := (((s.setClk Config.clkReset).setWalker .idle).setPending false).forgetWork

/-- `IoRead` of an absolute port (R40, R42): a register of the engine, what an external device answers after every earlier
access it got, or `IDLE_IO_BYTE`.
A RAM bound to a port answers by what it got at ports alone: accesses to its pages are bytes of `State.ram`, not entries of `State.devLog`
(log entry 15, DESIGN CHOICE). -/
def ioRead (port : Byte) (s : State) : Host.Outcome State Fault Refusal :=
  match s.plat.route port with
  | .engine off => exec (decodePT (ptWord 0#1 off 0#8)) s
  | .external dev => .next ((s.logDevice dev (.portRead port)).reply (.data (Config.portByte dev port (s.devicePast dev))))
  | .unbound => .next (s.reply (.data s.plat.idleIo))

/-- `IoWrite` to an absolute port (R40, R42): a register of the engine; an external device gets the byte under its absolute port, and
an unbound port ignores it. A RAM bound to a port keeps no byte written there in its pages (log entry 15, DESIGN CHOICE). -/
def ioWrite (port v : Byte) (s : State) : Host.Outcome State Fault Refusal :=
  match s.plat.route port with
  | .engine off => exec (decodePT (ptWord 1#1 off v)) s
  | .external dev => .next ((s.logDevice dev (.portWrite port v)).reply .done)
  | .unbound => .next (s.reply .done)

/-- The requester reads a byte of the memory space, through the same map as the engine (R45, R46). -/
def requesterRead (a : Addr) (s : State) : State := (afterRead a s).reply (.data (busValue a s))

/-- The requester writes a byte of the memory space, through the same map as the engine (R45, R46). -/
def requesterWrite (a : Addr) (v : Byte) (s : State) : State := (busWrite a v s).reply .done

/-- One event, handled completely (R108). -/
def accept (e : Event) (s : State) : Host.Outcome State Fault Refusal :=
  match e with
  | .pt w => exec (decodePT w) s
  | .ioRead port => ioRead port s
  | .ioWrite port v => ioWrite port v s
  | .memRead a => .next (requesterRead a s)
  | .memWrite a v => .next (requesterWrite a v s)
  | .init => .next (initEvent s)
  | .reset => .next (resetEvent s)

/-- The machine in IDLE: the next event, if there is one; else it waits (R120). -/
def idleStep (s : State) : Host.Outcome State Fault Refusal :=
  match s.inputs with
  | [] => .next s
  | e :: es => accept e (s.setInputs es)

end Sys2Proof.Machine
end

