-- ==== Sys2Proof/Machine/Walker.lean ====
section
/-! DEFINITION. The walker as the state machine of R80 to R89: one step of the engine, with at most one bus operation. -/

namespace Sys2Proof.Machine

/-- DECODE, at the end of FETCH(9) (R84): the fields are latched, and a record of length 0 goes straight to ADVANCE (R98). -/
def decodeRecord (s : State) : State :=
  let d := recordDesc s.work.descBuf
  let s := latch d (recordLast s.work.descBuf) s
  s.setWalker (if d.length ≠ 0#24 then .copyRd else .advance)

/-- The FETCH(k) step (R83). -/
def tickFetch (k : Fin 10) (s : State) : State :=
  let s := fetchByte k s
  if h : k.val < 9 then s.setWalker (.fetch ⟨k.val + 1, by omega⟩) else decodeRecord s

/-- The COPY_RD step (R86). -/
def tickCopyRd (s : State) : State := (copyRead s).setWalker .copyWr

/-- The COPY_WR step (R87). -/
def tickCopyWr (s : State) : State :=
  let s := copyWrite s
  s.setWalker (if s.work.count ≠ 0#24 then .copyRd else .advance)

/-- The ADVANCE step (R88), completion included (R89). -/
def tickAdvance (s : State) : State :=
  let s := bumpDescAddr s
  if s.work.last then complete s else nextRecord s

/-- One step of the engine (R81): enabled in every BUSY state, whatever the environment answers; IDLE has none. -/
def tick (s : State) : State :=
  match s.walker with
  | .idle => s
  | .fetch k => tickFetch k s
  | .copyRd => tickCopyRd s
  | .copyWr => tickCopyWr s
  | .advance => tickAdvance s

/-- `n` steps of the engine. -/
def ticks : Nat → State → State
  | 0, s => s
  | n + 1, s => ticks n (tick s)

end Sys2Proof.Machine
end

