-- ==== Sys2Proof/Machine/Fetch.lean ====
section
/-! DEFINITION. Fetching and running one instruction, and placing one where the next step fetches it. -/

namespace Sys2Proof.Machine

/-- The walker at the start of a record: ten fetch reads, the decode, and the whole instruction (R79; log entry 1). -/
def recordStep (s : State) : Host.Outcome State Fault Refusal :=
  let s := fetchRecord s
  exec (decodeDesc s.work.descBuf) s

/-- A BUSY machine that takes whole records: one at FETCH(0), else one step of the engine up to the record's end (R79; log entry 1). -/
def recordPaceStep (s : State) : Host.Outcome State Fault Refusal :=
  match s.walker with
  | .idle => .next s
  | .fetch k => if k = 0 then recordStep s else .next (tick s)
  | .copyRd => .next (tick s)
  | .copyWr => .next (tick s)
  | .advance => .next (tick s)

/-- A BUSY machine: one step of the engine (R81), or a whole record at the pace of R79 (log entry 1). -/
def busyStep (s : State) : Host.Outcome State Fault Refusal :=
  match s.pace with
  | .byBusOperation => .next (tick s)
  | .byRecord => recordPaceStep s

/-- One step of the machine: the walker while BUSY, the outside's next event while IDLE (R27, R81). -/
def machineStep (s : State) : Host.Outcome State Fault Refusal :=
  if s.busy then busyStep s else idleStep s

/-- Whether the ten bytes from `a` on all lie in RAM pages. -/
def recordInRam (p : Platform) (a : Addr) : Bool :=
  [0, 1, 2, 3, 4, 5, 6, 7, 8, 9].all (fun k => decide (p.slot (a + BitVec.ofNat 24 k) = .ram))

/-- Bytes placed in RAM at rising addresses from `a` on. -/
def placeBytes (a : Addr) : List Byte → Memory → Memory
  | [], m => m
  | v :: vs, m => placeBytes (a + 1#24) vs (m.write (physOf a).toNat v)

/-- A port transaction as the next event of an IDLE engine (log entry 9). -/
def placePT (w : BitVec 12) (s : State) : State :=
  ((s.setWalker .idle).setPending false).setInputs (.pt w :: s.inputs)

/-- A record at `desc_addr`, with the walker at FETCH(0) and the pace that runs it in one step; pages that are no RAM are bound to one first (log entry 9). -/
def placeRecord (bs : List Byte) (s : State) : State :=
  let s := (startTransfer s).setPace .byRecord
  let s := if recordInRam s.plat s.descAddr then s else s.setPlat { s.plat with memMap := [⟨0, 256, ⟨1, .ram⟩⟩] }
  s.setRam (placeBytes s.descAddr bs s.ram)

/-- The instruction whose bits are `w`, numbered as spec/opcode_table.json numbers them, placed where the next step fetches. -/
def placeWord (s : State) (nbits w : Nat) : State :=
  match formOfBits nbits with
  | .pt => placePT (BitVec.ofNat 12 w) s
  | .desc => placeRecord (bytesOf Config.descSize w) s

end Sys2Proof.Machine
end

