-- ==== Sys2Proof/Machine/Step.lean ====
section
/-! DEFINITION. The step of the machine, and the placing of one instruction where it fetches the next. -/

namespace Sys2Proof.Machine

/-- One step: an event of the outside while IDLE; while BUSY one step of the engine, or, at the pace of R79, a whole record (log entry 1). -/
def step (s : State) : Host.Outcome State Fault Refusal := machineStep s

/-- The state with the instruction of opcode-table bits `w` as the one the next step fetches and runs (log entry 9). -/
def State.withFetchWord (s : State) (nbits w : Nat) : State := placeWord s nbits w

end Sys2Proof.Machine
end

