-- ==== Sys2Proof/Machine/Platform.lean ====
section
/-! DEFINITION. Assembling the machine (R41): binding a device is accepted or rejected by name, at construction only. -/

namespace Sys2Proof.Machine

/-- Why a binding is rejected at construction (R41; log entry 15). -/
inductive BindError where
  | misaligned      -- the region does not begin or end at a page
  | outOfRange      -- the region is empty or leaves the memory space
  | overlap         -- a slot of the region is already bound
  | tooManyDevices  -- more than 32 device instances
  | kindClash       -- the same instance number already names a device of another kind
deriving DecidableEq, Repr

/-- Every binding's device, in the order bound, the engine's own instance apart. -/
def Platform.bound (p : Platform) : List Device := p.memMap.map (·.device) ++ p.ioMap.map (·.device)

/-- The distinct device numbers among some devices. -/
def distinctIds (ds : List Device) : List Nat := (ds.map (·.id)).dedup

/-- At most 32 device instances, the engine among them (R41). -/
def fewDevices (ds : List Device) : Bool := decide ((distinctIds ds).length + 1 ≤ Config.maxDevices)

/-- One number names one device. -/
def sameKinds (ds : List Device) : Bool := ds.all (fun d => ds.all (fun e => decide (d.id = e.id → d.kind = e.kind)))

/-- A binding's pages exist and there is at least one (R36). -/
def MemBinding.inRange (b : MemBinding) : Bool := decide (1 ≤ b.pages) && decide (b.pageFrom + b.pages ≤ Config.numPages)

/-- Two bindings have no page in common. -/
def MemBinding.apart (b c : MemBinding) : Bool := decide (b.pageFrom + b.pages ≤ c.pageFrom) || decide (c.pageFrom + c.pages ≤ b.pageFrom)

/-- Every two of some bindings have no page in common. -/
def allApart : List MemBinding → Bool
  | [] => true
  | b :: bs => bs.all (b.apart ·) && allApart bs

/-- Whether a port is one of the engine's five (R42). -/
def Platform.isEnginePort (p : Platform) (port : Byte) : Bool :=
  decide (p.ioBase.val ≤ port.toNat) && decide (port.toNat ≤ p.ioBase.val + 4)

/-- A correctly assembled machine (R41, R105): regions in range and apart, ports bound once and none of the engine's, at most
32 devices, one number per device. -/
def Platform.wf (p : Platform) : Bool :=
  p.memMap.all MemBinding.inRange && allApart p.memMap &&
  p.ioMap.all (fun b => !p.isEnginePort b.port) && decide ((p.ioMap.map (·.port)).Nodup) &&
  fewDevices p.bound && sameKinds p.bound

/-- `bind` of a memory region, given in bytes, to a device (R41): rejected when not page-aligned, outside the memory space,
overlapping a bound slot (decision D10), or past 32 devices. -/
def Platform.bindMem (base size : Nat) (d : Device) (p : Platform) : Except BindError Platform :=
  if base % Config.pageSize ≠ 0 ∨ size % Config.pageSize ≠ 0 then .error .misaligned
  else
    let b : MemBinding := ⟨base / Config.pageSize, size / Config.pageSize, d⟩
    if !b.inRange then .error .outOfRange
    else if !p.memMap.all (b.apart ·) then .error .overlap
    else if !fewDevices (d :: p.bound) then .error .tooManyDevices
    else if !sameKinds (d :: p.bound) then .error .kindClash
    else .ok { p with memMap := b :: p.memMap }

/-- `bind` of one I/O port to a device (R41): rejected when the port is bound already, the engine's five among them (R42), or
past 32 devices. -/
def Platform.bindPort (port : Byte) (d : Device) (p : Platform) : Except BindError Platform :=
  if p.isEnginePort port || p.ioMap.any (fun b => decide (b.port = port)) then .error .overlap
  else if !fewDevices (d :: p.bound) then .error .tooManyDevices
  else if !sameKinds (d :: p.bound) then .error .kindClash
  else .ok { p with ioMap := ⟨port, d⟩ :: p.ioMap }

end Sys2Proof.Machine
end

