-- ==== Sys2Proof/Safety.lean ====
section
/-! DEFINITION. What counts as a safe run, and the terms the statements use: the invariant, runs of whole steps, counters of steps of
the engine, the addresses a counter visits, and the bus operations the spec orders. -/

namespace Sys2Proof.Machine

/-! ## The invariant -/

/-- What every state a run reaches has: `pending` exactly while BUSY (R25), canonical RAM, a correctly assembled machine (R41,
R105), a byte left to copy in both COPY states (R84, R87), and in FETCH(k) the index in the register `k` (R23, R24). -/
def State.Inv (s : State) : Prop :=
  s.pending = s.busy ∧ s.ram.wf = true ∧ s.plat.wf = true ∧ (s.walker = .copyRd ∨ s.walker = .copyWr → s.work.count ≠ 0#24) ∧
  (∀ k, s.walker = .fetch k → s.work.k = BitVec.ofNat 4 k.val)

/-! ## Runs -/

/-- The state a step answers, or the state itself where it stops. ZisaDMA's steps never stop (R103). -/
def nextState (s : State) : State :=
  match step s with
  | .next t => t
  | .fault _ => s
  | .refused _ => s

/-- The state after `n` steps of the machine. -/
def run : Nat → State → State
  | 0, s => s
  | n + 1, s => run n (nextState s)

/-- A safe run: `n` steps in a row, none of which stops. The hang of an unterminated chain is safe in this sense (R104). -/
def runsSafely : Nat → State → Prop
  | 0, _ => True
  | n + 1, s => ∃ t, step s = .next t ∧ runsSafely n t

/-- Instructions executed one after the other. -/
def runInstrs : List Instr → State → Host.Outcome State Fault Refusal
  | [], s => .next s
  | i :: is, s =>
    match exec i s with
    | .next t => runInstrs is t
    | .fault r => .fault r
    | .refused r => .refused r

/-! ## Records -/

/-- The record the walker fetches at FETCH(0), as the bus answers it (R79 step 1). -/
def State.record (s : State) : Vector Byte 10 := (fetchRecord s).work.descBuf

/-- The ten bytes from `a` on lie in RAM pages and hold `b`. -/
abbrev State.holdsRecord (s : State) (a : Addr) (b : Vector Byte 10) : Prop :=
  ∀ k : Fin 10, s.isRam (a + BitVec.ofNat 24 k.val) = true ∧ s.peek (a + BitVec.ofNat 24 k.val) = b[k]

/-- The state after the record at FETCH(0), fetched and executed as its instruction says (R79, R91, R92); in any other walker state, the
state itself. -/
def afterRecord (s : State) : State :=
  match s.walker with
  | .fetch k =>
    if k = 0 then
      match exec (decodeDesc s.record) (fetchRecord s) with
      | .next t => t
      | .fault _ => s
      | .refused _ => s
    else s
  | .idle => s
  | .copyRd => s
  | .copyWr => s
  | .advance => s

/-- The state after `n` records of a chain. -/
def walk : Nat → State → State
  | 0, s => s
  | n + 1, s => walk n (afterRecord s)

/-- The engine steps of the record at FETCH(0): 11 and two for each byte copied (R132). -/
def recordTicks (s : State) : Nat := 11 + 2 * (recordDesc s.record).length.toNat

/-- The engine steps of `n` records from FETCH(0) on (R132). -/
def chainTicks : Nat → State → Nat
  | 0, _ => 0
  | n + 1, s => recordTicks s + chainTicks n (afterRecord s)

/-! ## Counters and bus operations -/

/-- The address counter after `n` bytes: `rd_j,n` or `wr_j,n` of R82. -/
def stepMany (m : StepMode) : Nat → Addr → Addr
  | 0, a => a
  | n + 1, a => stepMany m n (stepAddr m a)

/-- The ten fetch reads of a record, in order (R82). -/
def fetchOps (a : Addr) (b : Vector Byte 10) : List BusOp :=
  (List.finRange 10).map (fun k => .read (a + BitVec.ofNat 24 k.val) b[k])

/-- The reads and writes of a copy in order, each byte read and then written, given the bytes read (R82). -/
def copyOps (rs ws : StepMode) : Addr → Addr → List Byte → List BusOp
  | _, _, [] => []
  | rd, wr, v :: vs => .read rd v :: .write wr v :: copyOps rs ws (stepAddr rs rd) (stepAddr ws wr) vs

/-- The bus operations of the record at FETCH(0) in order, given the bytes its copy reads (R82). -/
def State.recordOps (s : State) (vs : List Byte) : List BusOp :=
  fetchOps s.descAddr s.record ++
    copyOps (recordDesc s.record).readStep (recordDesc s.record).writeStep
      (recordDesc s.record).readAddress (recordDesc s.record).writeAddress vs

/-- The copy loop of R79 step 2 and R91, on the environment alone: `rd` and `wr` are the loop's own, no working register is used. -/
def copyLoop (rs ws : StepMode) : Nat → Addr → Addr → State → State
  | 0, _, _, s => s
  | n + 1, rd, wr, s => copyLoop rs ws n (stepAddr rs rd) (stepAddr ws wr) (masterWrite wr (busValue rd s) (masterRead rd s))

/-- Every address a counter visits in `n` bytes lies in a RAM page. -/
abbrev State.ramRange (s : State) (m : StepMode) (a : Addr) (n : Nat) : Prop := ∀ j < n, s.isRam (stepMany m j a) = true

end Sys2Proof.Machine

namespace Sys2Proof

/-- A portable instruction: no encoding the spec reserves (R59), that is control data 0x00 or 0x01 only, `flags[7:5]` clear, no step
mode 3, and no `off` above 4. Software must not use any other, though this machine gives each its effect. -/
def Instr.portable : Instr → Bool
  | .rdDesc0 => true
  | .rdDesc1 => true
  | .rdDesc2 => true
  | .rdClk => true
  | .rdCtrl => true
  | .rdNone5 => false
  | .rdNone6 => false
  | .rdNone7 => false
  | .wrDesc0 _ => true
  | .wrDesc1 _ => true
  | .wrDesc2 _ => true
  | .wrClk _ => true
  | .wrCtrlStart v => decide (v = 0x01#8)
  | .wrCtrlNop v => decide (v = 0x00#8)
  | .wrNone5 _ => false
  | .wrNone6 _ => false
  | .wrNone7 _ => false
  | .xfer d => decide (d.readStep ≠ .reserved3 ∧ d.writeStep ≠ .reserved3 ∧ d.reserved = 0#3)
  | .xferLast d => decide (d.readStep ≠ .reserved3 ∧ d.writeStep ≠ .reserved3 ∧ d.reserved = 0#3)

end Sys2Proof
end

