-- ==== Sys2Proof/Certificates/Slice0/Obligations.lean ====
section
/-! DEFINITION. The statements about ZisaDMA, from the numbered rules of spec/. A next state is written as a whole, by the fields that
change, so a result, its frame and its completion are one equation. -/

open Sys2Proof Sys2Proof.Machine

/-! ## Reset -/

/-- R116: the state after init, which is the power-on state. The RAM's blank list, the empty queues and the zero in the working registers
are the model's (log entries 2 and 8) and are not claimed here. -/
def Obligations.ResetStateIsAfterInit : Prop :=
  State.reset.descAddr = 0x000000#24 ∧ State.reset.clk = 0x11#8 ∧ State.reset.walker = .idle ∧ State.reset.pending = false

/-- R116, R121: the init event, whatever the working registers and the draw counter hold afterwards; nothing outside the engine changes. -/
def Obligations.InitEventSetsInitValues : Prop :=
  ∀ (s : State) (es : List Event), s.walker = .idle → s.inputs = .init :: es →
    ∃ w n, step s = .next { s with
      descAddr := 0x000000#24, clk := 0x11#8, walker := .idle, pending := false, work := w, draws := n, inputs := es }

/-- R117, R118, R121: the soft reset loads `clk` and keeps `desc_addr`; nothing outside the engine changes. -/
def Obligations.ResetEventKeepsDescAddr : Prop :=
  ∀ (s : State) (es : List Event), s.walker = .idle → s.inputs = .reset :: es →
    ∃ w n, step s = .next { s with
      clk := 0x56#8, walker := .idle, pending := false, work := w, draws := n, inputs := es }

/-! ## Register-port operations -/

/-- R65, R66, R67: each read returns its own byte of `desc_addr` and changes nothing else; the word's data byte is ignored. -/
def Obligations.DescAddrReadsReturnTheirByte : Prop :=
  ∀ (s : State) (x : Byte), s.walker = .idle →
    decodePT (0x0#4 ++ x) = .rdDesc0 ∧ decodePT (0x1#4 ++ x) = .rdDesc1 ∧ decodePT (0x2#4 ++ x) = .rdDesc2 ∧
    exec .rdDesc0 s = .next { s with replies := .data (s.descAddr.extractLsb' 0 8) :: s.replies } ∧
    exec .rdDesc1 s = .next { s with replies := .data (s.descAddr.extractLsb' 8 8) :: s.replies } ∧
    exec .rdDesc2 s = .next { s with replies := .data (s.descAddr.extractLsb' 16 8) :: s.replies }

/-- R71, R72, R73: each write replaces its own byte of `desc_addr`, keeps the other two, and completes. -/
def Obligations.DescAddrWritesChangeTheirByte : Prop :=
  ∀ (s : State) (v : Byte), s.walker = .idle →
    decodePT (0x8#4 ++ v) = .wrDesc0 v ∧ decodePT (0x9#4 ++ v) = .wrDesc1 v ∧ decodePT (0xA#4 ++ v) = .wrDesc2 v ∧
    exec (.wrDesc0 v) s = .next { s with
      descAddr := s.descAddr.extractLsb' 8 16 ++ v, replies := .done :: s.replies } ∧
    exec (.wrDesc1 v) s = .next { s with
      descAddr := s.descAddr.extractLsb' 16 8 ++ v ++ s.descAddr.extractLsb' 0 8, replies := .done :: s.replies } ∧
    exec (.wrDesc2 v) s = .next { s with
      descAddr := v ++ s.descAddr.extractLsb' 0 16, replies := .done :: s.replies }

/-- R18, R68, R74: `clk` is read and written as a raw byte, and the two fields are its nibbles (their places are the spec's decision D2). -/
def Obligations.ClkReadsAndWritesTheRawByte : Prop :=
  ∀ (s : State) (v : Byte), s.walker = .idle →
    decodePT (0x3#4 ++ v) = .rdClk ∧ decodePT (0xB#4 ++ v) = .wrClk v ∧
    exec .rdClk s = .next { s with replies := .data s.clk :: s.replies } ∧
    exec (.wrClk v) s = .next { s with clk := v, replies := .done :: s.replies } ∧
    ({ s with clk := v } : State).rdCycle = v.extractLsb' 0 4 ∧ ({ s with clk := v } : State).wrCycle = v.extractLsb' 4 4

/-- R69, R70: the control port and the offsets 5 to 7 read as 0x00, with no side effect (the spec's decisions D12 and D23). -/
def Obligations.CtrlAndUnknownOffsetsReadZero : Prop :=
  ∀ (s : State) (x : Byte), s.walker = .idle →
    decodePT (0x4#4 ++ x) = .rdCtrl ∧ decodePT (0x5#4 ++ x) = .rdNone5 ∧
    decodePT (0x6#4 ++ x) = .rdNone6 ∧ decodePT (0x7#4 ++ x) = .rdNone7 ∧
    exec .rdCtrl s = .next { s with replies := .data 0x00#8 :: s.replies } ∧
    exec .rdNone5 s = .next { s with replies := .data 0x00#8 :: s.replies } ∧
    exec .rdNone6 s = .next { s with replies := .data 0x00#8 :: s.replies } ∧
    exec .rdNone7 s = .next { s with replies := .data 0x00#8 :: s.replies }

/-- R75, R80: a control write with bit 0 set starts a transfer; it is answered only at completion, it makes no bus operation, and `desc_addr`
stays; the index `k` of FETCH(0) is 0 (R23, log entry 3). That its other bits are ignored is the spec's decision D11 (log entry 13). -/
def Obligations.StartWriteBeginsAtFetchZero : Prop :=
  ∀ (s : State) (v : Byte), s.walker = .idle → v.getLsbD 0 = true →
    decodePT (0xC#4 ++ v) = .wrCtrlStart v ∧
    exec (.wrCtrlStart v) s = .next { s with pending := true, walker := .fetch 0, work := { s.work with k := 0#4 } }

/-- R20, R76: a control write with bit 0 clear changes nothing, whatever its other bits (the spec's decision D11); it completes. -/
def Obligations.CtrlWriteWithoutStartBitDoesNothing : Prop :=
  ∀ (s : State) (v : Byte), s.walker = .idle → v.getLsbD 0 = false →
    decodePT (0xC#4 ++ v) = .wrCtrlNop v ∧
    exec (.wrCtrlNop v) s = .next { s with replies := .done :: s.replies }

/-- R77: a write at the offsets 5 to 7 changes nothing; it completes (the spec's decision D23). -/
def Obligations.UnknownOffsetWritesDoNothing : Prop :=
  ∀ (s : State) (v : Byte), s.walker = .idle →
    decodePT (0xD#4 ++ v) = .wrNone5 v ∧ decodePT (0xE#4 ++ v) = .wrNone6 v ∧ decodePT (0xF#4 ++ v) = .wrNone7 v ∧
    exec (.wrNone5 v) s = .next { s with replies := .done :: s.replies } ∧
    exec (.wrNone6 v) s = .next { s with replies := .done :: s.replies } ∧
    exec (.wrNone7 v) s = .next { s with replies := .done :: s.replies }

/-- R16, R78: the three byte writes of one address, in any order, leave exactly that address in `desc_addr`, and reading the three bytes
back returns it. -/
def Obligations.DescAddrWritesInAnyOrderBuildTheAddress : Prop :=
  ∀ (s : State) (a : Addr) (l : List Instr), s.walker = .idle →
    l.Perm [.wrDesc0 (a.extractLsb' 0 8), .wrDesc1 (a.extractLsb' 8 8), .wrDesc2 (a.extractLsb' 16 8)] →
    runInstrs l s = .next { s with descAddr := a, replies := .done :: .done :: .done :: s.replies } ∧
    runInstrs (l ++ [.rdDesc0, .rdDesc1, .rdDesc2]) s = .next { s with
      descAddr := a
      replies := .data (a.extractLsb' 16 8) :: .data (a.extractLsb' 8 8) :: .data (a.extractLsb' 0 8) ::
        .done :: .done :: .done :: s.replies }

/-! ## IDLE and BUSY -/

/-- R27: while BUSY no port transaction completes. The model's form of it: `exec` leaves the state as it is. In IDLE no record is
executed, likewise (log entry 11). -/
def Obligations.TransactionHeldWhileBusyAndRecordWhileIdle : Prop :=
  (∀ (i : Instr) (s : State), i.form = .pt → s.busy = true → exec i s = .next s) ∧
  (∀ (i : Instr) (s : State), i.form = .desc → s.walker = .idle → exec i s = .next s)

/-- R27, R107, R122: while BUSY the machine takes no event, a reset included; the registers the requester writes and the machine's
assembly stay, and the only answer it gives is the completion of the start write, in the step that returns to IDLE. -/
def Obligations.BusyStepTakesNoEvent : Prop :=
  ∀ s : State, s.busy = true → ∃ t, step s = .next t ∧
    t.inputs = s.inputs ∧ t.clk = s.clk ∧ t.plat = s.plat ∧
    (t.busy = true ∧ t.replies = s.replies ∧ t.pending = s.pending ∨
     t.walker = .idle ∧ t.replies = .done :: s.replies ∧ t.pending = false)

/-- R120 with R75: an IDLE engine waits until a start write; it turns BUSY only by a control write with bit 0 set, delivered as a PT word
or routed from port `DMA_IO_BASE + 4`. -/
def Obligations.OnlyStartWriteLeavesIdle : Prop :=
  ∀ s t : State, s.walker = .idle → step s = .next t → t.busy = true →
    t.walker = .fetch 0 ∧ t.descAddr = s.descAddr ∧ t.trace = s.trace ∧
    ∃ v es, v.getLsbD 0 = true ∧
      (s.inputs = .pt (0xC#4 ++ v) :: es ∨
       ∃ p, s.inputs = .ioWrite p v :: es ∧ p.toNat = s.plat.ioBase.val + 4)

/-- R120: with nothing to do an IDLE machine waits, and no step changes it. -/
def Obligations.IdleMachineWaits : Prop :=
  ∀ s : State, s.walker = .idle → s.inputs = [] → step s = .next s

/-! ## A step runs the decoded instruction -/

/-- R61, R64: the next port transaction of an IDLE engine is decoded and executed. -/
def Obligations.StepRunsPortTransaction : Prop :=
  ∀ (s : State) (w : BitVec 12) (es : List Event), s.walker = .idle → s.inputs = .pt w :: es →
    step s = exec (decodePT w) { s with inputs := es }

/-- R79, R83: at the pace of R79, at FETCH(0) the ten bytes at `desc_addr`, in RAM pages, are read in order, decoded and executed in one step
(log entry 1), with the register `k` of R23 at 9 (log entry 3). At the pace of R81 the machine's steps come to the same
(`RecordStepRefinesTheStateMachine`). -/
def Obligations.StepRunsRecordAtDescAddr : Prop :=
  ∀ (s : State) (b : Vector Byte 10), s.pace = .byRecord → s.walker = .fetch 0 → s.holdsRecord s.descAddr b →
    step s = exec (decodeDesc b) { s with
      work := { s.work with descBuf := b, k := 9#4 }, trace := (fetchOps s.descAddr b).reverse ++ s.trace }

/-- R40, R42, R64: a requester's access to one of the ports `DMA_IO_BASE` to `DMA_IO_BASE + 4` is the engine's transaction at that offset. An
unbound port reads as `IDLE_IO_BYTE` and ignores writes (decision D9). A device bound to any other port gets the access under its absolute
port, and answers a read by its contract after every earlier access that stands in `devLog`, which for a device of kind `external` is every
one it got; that nothing else changes then, no byte of RAM among it, is the model's choice (log entry 5). For a device of kind `ram` the whole
of it is the model's choice, which rests on no rule (log entry 15, DESIGN CHOICE): its port answers count its port accesses alone, and a port
write changes no byte of it. -/
def Obligations.IoPortsRouteByBase : Prop :=
  ∀ (s : State) (p v : Byte) (es : List Event), s.walker = .idle →
    (∀ off : BitVec 3, off.toNat ≤ 4 → p.toNat = s.plat.ioBase.val + off.toNat →
      (s.inputs = .ioWrite p v :: es → step s = exec (decodePT (1#1 ++ off ++ v)) { s with inputs := es }) ∧
      (s.inputs = .ioRead p :: es → step s = exec (decodePT (0#1 ++ off ++ 0x00#8)) { s with inputs := es })) ∧
    (p.toNat < s.plat.ioBase.val ∨ s.plat.ioBase.val + 4 < p.toNat →
      (∀ b ∈ s.plat.ioMap, b.port ≠ p) →
      (s.inputs = .ioWrite p v :: es → step s = .next { s with inputs := es, replies := .done :: s.replies }) ∧
      (s.inputs = .ioRead p :: es → step s = .next { s with inputs := es, replies := .data s.plat.idleIo :: s.replies })) ∧
    (∀ d : Device, p.toNat < s.plat.ioBase.val ∨ s.plat.ioBase.val + 4 < p.toNat →
      s.plat.ioMap.find? (fun b => b.port = p) = some ⟨p, d⟩ →
      (s.inputs = .ioWrite p v :: es → step s = .next { s with
        inputs := es, replies := .done :: s.replies, devLog := ⟨d.id, .portWrite p v⟩ :: s.devLog }) ∧
      (s.inputs = .ioRead p :: es → step s = .next { s with
        inputs := es, replies := .data (Config.portByte d.id p (s.devicePast d.id)) :: s.replies
        devLog := ⟨d.id, .portRead p⟩ :: s.devLog }))

/-- R36, R45, R46: the requester's own accesses go through the same map as the engine's: what it writes to a RAM page is what any later read
of that physical byte returns, another device's page delivers the access to that device, and no access of its own is in the engine's trace
(log entry 12). That such a device changes no byte of RAM is the model's choice (log entry 5). -/
def Obligations.RequesterSharesTheMemory : Prop :=
  ∀ (s : State) (a : Addr) (v : Byte) (es : List Event), s.walker = .idle →
    (s.ram.wf = true → s.isRam a = true →
      (s.inputs = .memWrite a v :: es → ∃ t, step s = .next t ∧ t = { s with inputs := es, replies := .done :: s.replies, ram := t.ram } ∧
        ∀ b, t.peek b = if physOf b = physOf a then v else s.peek b) ∧
      (s.inputs = .memRead a :: es → step s = .next { s with inputs := es, replies := .data (s.peek a) :: s.replies })) ∧
    (∀ dev, s.plat.slot a = .external dev →
      (s.inputs = .memWrite a v :: es → step s = .next { s with
        inputs := es, replies := .done :: s.replies, devLog := ⟨dev, .write (a.extractLsb' 0 14) v⟩ :: s.devLog }) ∧
      (s.inputs = .memRead a :: es → step s = .next { s with
        inputs := es, replies := .data (Config.deviceByte dev (a.extractLsb' 0 14) (s.devicePast dev)) :: s.replies
        devLog := ⟨dev, .read (a.extractLsb' 0 14)⟩ :: s.devLog }))

/-! ## The walker's steps -/

/-- R83: FETCH(k) for k below 9; the register `k` of R23 goes on with the state (log entry 3). Where the byte lies in another device's page,
that device gets the read (R35, R38), and that no byte of RAM changes then is the model's choice (log entry 5, DESIGN CHOICE). -/
def Obligations.FetchStepReadsOneByteOfTheRecord : Prop :=
  ∀ (s : State) (k : Fin 9), s.walker = .fetch k.castSucc → tick s = { s with
    work := { s.work with
      descBuf := s.work.descBuf.set k.val (busValue (s.descAddr + BitVec.ofNat 24 k.val) s)
      k := BitVec.ofNat 4 (k.val + 1) }
    walker := .fetch k.succ
    trace := .read (s.descAddr + BitVec.ofNat 24 k.val) (busValue (s.descAddr + BitVec.ofNat 24 k.val) s) :: s.trace
    devLog := (afterRead (s.descAddr + BitVec.ofNat 24 k.val) s).devLog }

/-- R83, R84, R98: FETCH(9) reads the last byte, latches every field (at the places of the spec's decisions D3 to D5), and goes to COPY_RD, or
to ADVANCE for a length of 0. The register `k` of R23 is 9 after it (log entry 3). Where the last byte
lies in another device's page, that device gets the read (R35, R38), and that no byte of RAM changes then is the model's choice (log entry 5,
DESIGN CHOICE). -/
def Obligations.DecodeStepLatchesTheFields : Prop :=
  ∀ (s : State) (b : Vector Byte 10), s.walker = .fetch 9 →
    b = s.work.descBuf.set 9 (busValue (s.descAddr + 9#24) s) → tick s = { s with
      work := { s.work with
        descBuf := b
        k := 9#4
        rdPtr := b[2] ++ b[1] ++ b[0]
        wrPtr := b[5] ++ b[4] ++ b[3]
        count := b[8] ++ b[7] ++ b[6]
        rs := StepMode.ofBits (b[9].extractLsb' 0 2)
        ws := StepMode.ofBits (b[9].extractLsb' 2 2)
        last := b[9].getLsbD 4 }
      walker := if b[8] ++ b[7] ++ b[6] = (0#24 : BitVec 24) then .advance else .copyRd
      trace := .read (s.descAddr + 9#24) (busValue (s.descAddr + 9#24) s) :: s.trace
      devLog := (afterRead (s.descAddr + 9#24) s).devLog }

/-- R86: COPY_RD reads one byte into `data`. Where the byte lies in another device's page, that device gets the read (R35, R38), and that no
byte of RAM changes then is the model's choice (log entry 5, DESIGN CHOICE). -/
def Obligations.CopyReadStepReadsOneByte : Prop :=
  ∀ s : State, s.walker = .copyRd → tick s = { s with
    work := { s.work with data := busValue s.work.rdPtr s }
    walker := .copyWr
    trace := .read s.work.rdPtr (busValue s.work.rdPtr s) :: s.trace
    devLog := (afterRead s.work.rdPtr s).devLog }

/-- R85, R87, R93: COPY_WR writes `data`, steps each counter by its own mode, and counts down; no latched field changes. Where the byte lands
is not R87's: the 22-bit mask is R37 (the spec's decision D8), what a RAM keeps is R44 (log entry 8), and that a write to another device's
page changes no byte of RAM is the model's choice (log entry 5). -/
def Obligations.CopyWriteStepWritesOneByte : Prop :=
  ∀ s : State, s.walker = .copyWr → tick s = { s with
    ram := if s.isRam s.work.wrPtr then s.ram.write (s.work.wrPtr.toNat % 2 ^ 22) s.work.data else s.ram
    work := { s.work with
      rdPtr := stepAddr s.work.rs s.work.rdPtr
      wrPtr := stepAddr s.work.ws s.work.wrPtr
      count := s.work.count - 1#24 }
    walker := if s.work.count = 1#24 then .advance else .copyRd
    devLog := (busWrite s.work.wrPtr s.work.data s).devLog
    trace := .write s.work.wrPtr s.work.data :: s.trace }

/-- R35, R38, R39: a master access to another device's page is exactly one access to that device, at the page-relative offset, and a read
returns what the device's contract gives; an access to any other page reaches no device. That no byte of RAM changes then is the model's
choice (log entry 5). -/
def Obligations.DeviceGetsEachAccessOnce : Prop :=
  (∀ (s : State) (a : Addr) (v : Byte) (dev : Nat), s.plat.slot a = .external dev →
    masterRead a s = { s with
      devLog := ⟨dev, .read (a.extractLsb' 0 14)⟩ :: s.devLog
      trace := .read a (Config.deviceByte dev (a.extractLsb' 0 14) (s.devicePast dev)) :: s.trace } ∧
    masterWrite a v s = { s with
      devLog := ⟨dev, .write (a.extractLsb' 0 14) v⟩ :: s.devLog
      trace := .write a v :: s.trace }) ∧
  (∀ (s : State) (a : Addr) (v : Byte), (∀ dev, s.plat.slot a ≠ .external dev) →
    (masterRead a s).devLog = s.devLog ∧ (masterWrite a v s).devLog = s.devLog)

/-- R38, R45: what a device answers depends on every earlier access it got, by the engine or the requester, in memory or at a port, the last
write among them. That it depends on no access to another device is the model's choice (log entry 5, DESIGN CHOICE), and no rule's. -/
def Obligations.DeviceAnswersAfterEveryEarlierAccess : Prop :=
  ∀ (s t : State) (b : Addr) (dev dev' : Nat) (op : DeviceOp), t.plat.slot b = .external dev' →
    t.devLog = ⟨dev, op⟩ :: s.devLog →
    busValue b t = Config.deviceByte dev' (b.extractLsb' 0 14) (if dev' = dev then op :: s.devicePast dev else s.devicePast dev')

/-- R88, R89: ADVANCE adds 10 to `desc_addr`, for the last record too, and then goes on or completes; it makes no bus operation. That the
register `k` of R23 is 0 at FETCH(0) is log entry 3's (DEDUCED). What the working registers hold after completion is not stated (R23). -/
def Obligations.AdvanceStepMovesPastTheRecord : Prop :=
  ∀ s : State, s.walker = .advance →
    (s.work.last = false → tick s = { s with
      descAddr := s.descAddr + 10#24, walker := .fetch 0, work := { s.work with k := 0#4 } }) ∧
    (s.work.last = true → ∃ w n, tick s = { s with
      descAddr := s.descAddr + 10#24, walker := .idle, pending := false, replies := .done :: s.replies, work := w, draws := n })

/-- R81: a step of the engine makes at most one bus operation. -/
def Obligations.EngineStepHasAtMostOneBusOperation : Prop :=
  ∀ s : State, (tick s).trace = s.trace ∨ ∃ op, (tick s).trace = op :: s.trace

/-- R81 (the spec's decision D13): from reset, whatever the outside does, every step of a BUSY machine is one step of the engine, with at most
one bus operation, and an IDLE machine makes none. The pace that says so is the model's own (log entry 1), and no step changes it. -/
def Obligations.StepsFromResetAreEngineSteps : Prop :=
  State.reset.pace = .byBusOperation ∧ (∀ s t : State, step s = .next t → t.pace = s.pace) ∧
  (∀ s t : State, s.walker = .idle → step s = .next t → t.trace = s.trace) ∧
  (∀ (n : Nat) (es : List Event) (s : State), s = run n { State.reset with inputs := es } → s.busy = true →
    step s = .next (tick s) ∧ ((tick s).trace = s.trace ∨ ∃ op, (tick s).trace = op :: s.trace))

/-- R93 to R96: the step modes, their wraps included. -/
def Obligations.StepModesMoveTheCounter : Prop :=
  (∀ a : Addr, stepAddr .fixed a = a) ∧
  (∀ a : Addr, (stepAddr .increment a).toNat = if a.toNat = 0xFFFFFF then 0x000000 else a.toNat + 1) ∧
  (∀ a : Addr, (stepAddr .decrement a).toNat = if a.toNat = 0x000000 then 0xFFFFFF else a.toNat - 1)

/-! ## The descriptor instructions -/

/-- R91: XFER's record, its copy loop, its advance, and the next fetch; nothing else changes but the hidden working registers. -/
def Obligations.XferRunsTheCopyLoopAndContinues : Prop :=
  (∀ b : Vector Byte 10, b[9].getLsbD 4 = false → decodeDesc b = .xfer (recordDesc b)) ∧
  (∀ (s : State) (d : Desc), s.busy = true →
    ∃ w, exec (.xfer d) s = .next
      { copyLoop d.readStep d.writeStep d.length.toNat d.readAddress d.writeAddress s with
        descAddr := s.descAddr + 10#24, walker := .fetch 0, work := w })

/-- R92: XFER.LAST's record, its copy loop, its advance, and the end of the transfer; what the working registers hold in IDLE is not stated. -/
def Obligations.XferLastRunsTheCopyLoopAndCompletes : Prop :=
  (∀ b : Vector Byte 10, b[9].getLsbD 4 = true → decodeDesc b = .xferLast (recordDesc b)) ∧
  (∀ (s : State) (d : Desc), s.busy = true →
    ∃ w n, exec (.xferLast d) s = .next
      { copyLoop d.readStep d.writeStep d.length.toNat d.readAddress d.writeAddress s with
        descAddr := s.descAddr + 10#24, walker := .idle, pending := false, replies := .done :: s.replies, work := w, draws := n })

/-- The frame of R91 and R92: a record's copy leaves every register the requester sees but `desc_addr`, and every byte of memory but the
bytes under the addresses its write counter visits (by R37, R44 and R47). Where the record touches another device's page, that the device
changes no byte of RAM is the model's choice (log entry 5). -/
def Obligations.TransferLeavesEverythingElseAlone : Prop :=
  ∀ (s : State) (d : Desc) (i : Instr), s.busy = true → s.ram.wf = true → i = .xfer d ∨ i = .xferLast d →
    ∃ t, exec i s = .next t ∧ t.descAddr = s.descAddr + 10#24 ∧ t.clk = s.clk ∧ t.plat = s.plat ∧ t.inputs = s.inputs ∧ t.pace = s.pace ∧
      ∀ a : Addr, (∀ j < d.length.toNat, physOf (stepMany d.writeStep j d.writeAddress) ≠ physOf a) → t.peek a = s.peek a

/-- R98: a record of length 0 makes no copy operation, and still advances, and still stops or goes on; the walker goes from DECODE straight
to ADVANCE. -/
def Obligations.ZeroLengthRecordCopiesNothing : Prop :=
  (∀ (s : State) (d : Desc), s.busy = true → d.length = 0#24 →
    (∃ w, exec (.xfer d) s = .next { s with descAddr := s.descAddr + 10#24, walker := .fetch 0, work := w }) ∧
    (∃ w n, exec (.xferLast d) s = .next { s with
      descAddr := s.descAddr + 10#24, walker := .idle, pending := false, replies := .done :: s.replies, work := w, draws := n })) ∧
  (∀ s : State, s.walker = .fetch 9 → (tick s).work.count = 0#24 → (tick s).walker = .advance)

/-- R59, R97: step mode 3 acts as FIXED and `flags[7:5]` are ignored, in what a record does to everything but the hidden working registers
(the spec's decisions D4 and D5). -/
def Obligations.ReservedEncodingsChangeNothing : Prop :=
  ∀ (s : State) (d : Desc) (r : BitVec 3), s.busy = true →
    exec (.xfer { d with reserved := r }) s = exec (.xfer d) s ∧
    exec (.xferLast { d with reserved := r }) s = exec (.xferLast d) s ∧
    (∀ t, exec (.xfer { d with readStep := .fixed }) s = .next t → ∃ w, exec (.xfer { d with readStep := .reserved3 }) s = .next { t with work := w }) ∧
    (∀ t, exec (.xfer { d with writeStep := .fixed }) s = .next t → ∃ w, exec (.xfer { d with writeStep := .reserved3 }) s = .next { t with work := w }) ∧
    exec (.xferLast { d with readStep := .reserved3 }) s = exec (.xferLast { d with readStep := .fixed }) s ∧
    exec (.xferLast { d with writeStep := .reserved3 }) s = exec (.xferLast { d with writeStep := .fixed }) s

/-- R82: the bus operations of a chain of `n` records, in order and no others: for each record ten fetch reads, then for each byte a read and a
write of the byte read; the records stand 10 apart. The ascending order of the ten reads is the spec's decision D6. -/
def Obligations.BusOperationsOfAChainInOrder : Prop :=
  ∀ (n : Nat) (s : State), (∀ m < n, (walk m s).walker = .fetch 0) → ∃ f : Nat → List Byte,
    (∀ m < n, (f m).length = (recordDesc (walk m s).record).length.toNat ∧ (walk m s).descAddr = s.descAddr + BitVec.ofNat 24 (10 * m)) ∧
    (walk n s).trace = ((List.range n).flatMap (fun m => (walk m s).recordOps (f m))).reverse ++ s.trace

/-! ## Whole records and chains against the walker's state machine -/

/-- R79 against R80 to R89 and R132: the source's algorithm for one record, its instruction run whole, is exactly 11 + 2n steps of the state
machine, BUSY in between. So the machine's two paces agree at the ends of records (log entry 1): as many steps at the pace of R81, or one
at the pace of R79. -/
def Obligations.RecordStepRefinesTheStateMachine : Prop :=
  ∀ s : State, s.walker = .fetch 0 →
    exec (decodeDesc s.record) (fetchRecord s) = .next (ticks (11 + 2 * (recordDesc s.record).length.toNat) s) ∧
    (∀ m < 11 + 2 * (recordDesc s.record).length.toNat, (ticks m s).busy = true) ∧
    (s.pace = .byBusOperation → exec (decodeDesc s.record) (fetchRecord s) = .next (run (11 + 2 * (recordDesc s.record).length.toNat) s)) ∧
    (s.pace = .byRecord → exec (decodeDesc s.record) (fetchRecord s) = step s)

/-- R132: a chain completes in exactly the sum of 11 + 2n_j steps of the engine after the START step, and so in as many steps of the machine at
the pace of R81 (log entry 1). -/
def Obligations.ChainTakesItsStepCount : Prop :=
  ∀ (n : Nat) (s : State), s.walker = .fetch 0 → (∀ m < n, (walk m s).walker = .fetch 0) →
    ticks (chainTicks n s) s = walk n s ∧ (∀ m < chainTicks n s, (ticks m s).busy = true) ∧
    (s.pace = .byBusOperation → run (chainTicks n s) s = walk n s)

/-- R90 (with R85, R88): a transfer ends after the first record fetched with `is_last` = 1, whatever a copy writes over, and after no other; until
then, for any number of records, the engine is BUSY, `pending` stays, `desc_addr` goes on modulo 2^24, and the requester gets no answer and no
turn. -/
def Obligations.TransferEndsOnlyAfterALastRecord : Prop :=
  (∀ s : State, s.walker = .fetch 0 → s.record[9].getLsbD 4 = true →
    (walk 1 s).walker = .idle ∧ (walk 1 s).pending = false ∧ (walk 1 s).replies = .done :: s.replies) ∧
  (∀ (n : Nat) (s : State), s.walker = .fetch 0 → (∀ m < n, (walk m s).record[9].getLsbD 4 = false) →
    (walk n s).walker = .fetch 0 ∧ (walk n s).pending = s.pending ∧ (walk n s).replies = s.replies ∧ (walk n s).inputs = s.inputs ∧
    (walk n s).descAddr = s.descAddr + BitVec.ofNat 24 (10 * n)) ∧
  (∀ s : State, s.busy = true → ((tick s).walker = .idle ↔ s.walker = .advance ∧ s.work.last = true))

/-- R99, R101: the records of a chain stand 10 apart modulo 2^24 (the modulus is the spec's decision D7), the last one passed too, so the walker
keeps the parity of `d0`. -/
def Obligations.ChainAdvancesTenByTen : Prop :=
  ∀ (n : Nat) (s : State), (∀ m < n, (walk m s).walker = .fetch 0) →
    (walk n s).descAddr = s.descAddr + BitVec.ofNat 24 (10 * n) ∧ (walk n s).descAddr.getLsbD 0 = s.descAddr.getLsbD 0

/-- R90, R130: in RAM that holds only zeros a started walker never completes, from any `desc_addr`. That an unwritten RAM byte reads as zero is
the model's (log entry 8). -/
def Obligations.ZeroMemoryChainNeverCompletes : Prop :=
  ∀ s : State, s.walker = .fetch 0 → (∀ a, s.isRam a = true) → s.ram = [] →
    ∀ n, (walk n s).walker = .fetch 0 ∧ (walk n s).pending = s.pending ∧ (walk n s).ram = [] ∧
      (walk n s).descAddr = s.descAddr + BitVec.ofNat 24 (10 * n) ∧ (run n s).busy = true

/-! ## What a copy leaves in memory -/

/-- R93 to R97 with R82: for every pair of step modes, when no address read is written, each destination byte ends as the byte its last
write read. -/
def Obligations.CopyClosedFormForEveryMode : Prop :=
  ∀ (s : State) (d : Desc) (i : Instr), s.busy = true → s.ram.wf = true → i = .xfer d ∨ i = .xferLast d →
    s.ramRange d.readStep d.readAddress d.length.toNat → s.ramRange d.writeStep d.writeAddress d.length.toNat →
    (∀ j < d.length.toNat, ∀ k < d.length.toNat,
      physOf (stepMany d.readStep j d.readAddress) ≠ physOf (stepMany d.writeStep k d.writeAddress)) →
    ∃ t, exec i s = .next t ∧
      ∀ j < d.length.toNat,
        (∀ k, j < k → k < d.length.toNat →
          physOf (stepMany d.writeStep k d.writeAddress) ≠ physOf (stepMany d.writeStep j d.writeAddress)) →
        t.peek (stepMany d.writeStep j d.writeAddress) = s.peek (stepMany d.readStep j d.readAddress)

/-- R102: a forward copy between ranges that do not overlap is byte for byte, and no other byte changes. -/
def Obligations.ForwardCopyIsByteForByte : Prop :=
  ∀ (s : State) (d : Desc) (i : Instr), s.busy = true → s.ram.wf = true → i = .xfer d ∨ i = .xferLast d →
    d.readStep = .increment → d.writeStep = .increment → 1 ≤ d.length.toNat →
    (∀ j < d.length.toNat, s.isRam (d.readAddress + BitVec.ofNat 24 j) = true ∧ s.isRam (d.writeAddress + BitVec.ofNat 24 j) = true) →
    (∀ j < d.length.toNat, ∀ k < d.length.toNat,
      physOf (d.readAddress + BitVec.ofNat 24 j) ≠ physOf (d.writeAddress + BitVec.ofNat 24 k)) →
    ∃ t, exec i s = .next t ∧
      (∀ j < d.length.toNat, t.peek (d.writeAddress + BitVec.ofNat 24 j) = s.peek (d.readAddress + BitVec.ofNat 24 j)) ∧
      (∀ a, (∀ j < d.length.toNat, physOf a ≠ physOf (d.writeAddress + BitVec.ofNat 24 j)) → t.peek a = s.peek a)

/-- R100, first case: a forward copy onto the next byte up fills the destination with the first source byte. -/
def Obligations.ForwardOverlapPropagatesTheFirstByte : Prop :=
  ∀ (s : State) (d : Desc) (i : Instr), s.busy = true → s.ram.wf = true → i = .xfer d ∨ i = .xferLast d →
    d.readStep = .increment → d.writeStep = .increment → d.writeAddress = d.readAddress + 1#24 → d.length.toNat < 2 ^ 22 →
    (∀ j ≤ d.length.toNat, s.isRam (d.readAddress + BitVec.ofNat 24 j) = true) →
    ∃ t, exec i s = .next t ∧ ∀ j ≤ d.length.toNat, t.peek (d.readAddress + BitVec.ofNat 24 j) = s.peek d.readAddress

/-- R100, second case: a forward copy to a destination below its source is exact, overlap or not. -/
def Obligations.ForwardCopyDownIsExact : Prop :=
  ∀ (s : State) (d : Desc) (i : Instr) (g : Nat), s.busy = true → s.ram.wf = true → i = .xfer d ∨ i = .xferLast d →
    d.readStep = .increment → d.writeStep = .increment → d.readAddress = d.writeAddress + BitVec.ofNat 24 g → 0 < g →
    d.length.toNat + g ≤ 2 ^ 22 →
    (∀ j < d.length.toNat + g, s.isRam (d.writeAddress + BitVec.ofNat 24 j) = true) →
    ∃ t, exec i s = .next t ∧
      ∀ j < d.length.toNat, t.peek (d.writeAddress + BitVec.ofNat 24 j) = s.peek (d.readAddress + BitVec.ofNat 24 j)

/-- R100, third case: a copy onto itself with equal modes changes no byte of memory. Where it touches another device's page, that the device
changes no byte of RAM is the model's choice (log entry 5). -/
def Obligations.CopyOntoItselfChangesNoByte : Prop :=
  ∀ (s : State) (d : Desc) (i : Instr), s.busy = true → s.ram.wf = true → i = .xfer d ∨ i = .xferLast d →
    d.readAddress = d.writeAddress → d.readStep = d.writeStep →
    ∃ t, exec i s = .next t ∧ ∀ a, t.peek a = s.peek a

/-- R48, R126: a record that copies ten bytes over the next record makes the walker fetch the bytes it copied: 31 steps of the engine run
that record, and ten more fetch and decode the next. -/
def Obligations.PatchedNextRecordIsFetched : Prop :=
  ∀ (s : State) (b c : Vector Byte 10) (d : Desc), s.walker = .fetch 0 → s.ram.wf = true → s.holdsRecord s.descAddr b →
    decodeDesc b = .xfer d → d.length = 10#24 → d.readStep = .increment → d.writeStep = .increment →
    d.writeAddress = s.descAddr + 10#24 → s.holdsRecord d.readAddress c →
    (∀ k : Fin 10, s.isRam (s.descAddr + 10#24 + BitVec.ofNat 24 k.val) = true) →
    (∀ j k : Fin 10, physOf (d.readAddress + BitVec.ofNat 24 j.val) ≠ physOf (s.descAddr + 10#24 + BitVec.ofNat 24 k.val)) →
    (ticks 31 s).walker = .fetch 0 ∧ (ticks 31 s).descAddr = s.descAddr + 10#24 ∧ (ticks 31 s).record = c ∧
    (ticks 41 s).work.descBuf = c ∧ (ticks 41 s).work.last = recordLast c

/-! ## Whole-machine rules -/

/-- R19, R131: `clk` has no effect on a BUSY machine: two runs that differ in it alone go on alike. -/
def Obligations.ClkHasNoEffectOnATransfer : Prop :=
  ∀ (s t : State) (v : Byte), s.busy = true → step s = .next t → step { s with clk := v } = .next { t with clk := v }

/-- R23: no rule reads a working register in IDLE, or at FETCH(0) what an earlier record left: two machines that differ in them alone go on
alike in everything else, at the next step and for any number of records. -/
def Obligations.IdleWorkingRegistersAreNeverRead : Prop :=
  (∀ (s t : State) (w : Work), s.walker = .idle ∨ s.walker = .fetch 0 → step s = .next t →
    ∃ w', step { s with work := w } = .next { t with work := w' }) ∧
  (∀ (n : Nat) (s : State) (w : Work), s.walker = .fetch 0 → ∃ w', walk n { s with work := w } = { walk n s with work := w' })

/-- R103, R104: no instruction and no step ends in a fault or a refusal; a run of any length goes on, a hang included. -/
def Obligations.NoExceptionIsEverRaised : Prop :=
  (∀ (i : Instr) (s : State), ∃ t, exec i s = .next t) ∧ (∀ (n : Nat) (s : State), runsSafely n s)

/-- The invariant holds after reset. -/
def Obligations.InvariantHoldsAtReset : Prop := State.reset.Inv

/-- R23 to R25, R41 and the canonical form of memory: every step keeps the invariant, from every state that has it. -/
def Obligations.StepKeepsTheInvariant : Prop := ∀ s t : State, s.Inv → step s = .next t → t.Inv

/-- R25 and R41 inside a record: every step of the engine keeps the invariant. -/
def Obligations.EngineStepKeepsTheInvariant : Prop := ∀ s : State, s.Inv → (tick s).Inv

/-! ## Encoding -/

/-- Decoding what the encoder gives for a well-formed instruction gives the instruction back, with any bytes after it left over. -/
def Obligations.DecodeOfEncodeIsTheInstruction : Prop :=
  ∀ (i : Instr) (rest : List Byte), i.wellFormed = true → decode i.form (encode i ++ rest) = .ok (i, rest)

/-- The other direction: every record is the encoding of what it decodes to, no bit lost; so is every write word, and a read word but for
its data byte, which is ignored. -/
def Obligations.EncodeOfDecodeIsTheWord : Prop :=
  (∀ b : Vector Byte 10, encode (decodeDesc b) = b.toList ∧ (decodeDesc b).wellFormed = true) ∧
  (∀ w : BitVec 12, w.getLsbD 11 = true → encode (decodePT w) = ptBytes w ∧ (decodePT w).wellFormed = true) ∧
  (∀ w : BitVec 12, w.getLsbD 11 = false → encode (decodePT w) = ptBytes (w &&& 0xF00#12))

/-- Words written out from the spec's encodings: P9, P4's two records, vector W11, program 3. -/
def Obligations.SampleWordsDecode : Prop :=
  decodeTableWord 16 0x812 = some (.wrDesc0 0x12#8) ∧ decodeTableWord 16 0x934 = some (.wrDesc1 0x34#8) ∧
  decodeTableWord 16 0xAAB = some (.wrDesc2 0xAB#8) ∧ decodeTableWord 16 0x300 = some .rdClk ∧
  decodeTableWord 16 0xC81 = some (.wrCtrlStart 0x81#8) ∧ decodeTableWord 16 0xCFE = some (.wrCtrlNop 0xFE#8) ∧
  decodeTableWord 80 0x05000004002000001000 = some (.xfer ⟨0x001000, 0x002000, 4, .increment, .increment, 0⟩) ∧
  decodeTableWord 80 0x15000004002100001100 = some (.xferLast ⟨0x001100, 0x002100, 4, .increment, .increment, 0⟩) ∧
  decodeTableWord 80 0xF5000002002000001000 = some (.xferLast ⟨0x001000, 0x002000, 2, .increment, .increment, 7⟩) ∧
  decodeTableWord 80 0x15000002000500FFFFFF = some (.xferLast ⟨0xFFFFFF, 0x000500, 2, .increment, .increment, 0⟩)

/-- R55, R56: the fields of a record are slices of its 80-bit little-endian value. -/
def Obligations.RecordFieldsAreSlicesOfTheRecord : Prop :=
  ∀ b : Vector Byte 10,
    (recordDesc b).readAddress.toNat = wordOf b.toList % 2 ^ 24 ∧
    (recordDesc b).writeAddress.toNat = wordOf b.toList / 2 ^ 24 % 2 ^ 24 ∧
    (recordDesc b).length.toNat = wordOf b.toList / 2 ^ 48 % 2 ^ 24 ∧
    (recordDesc b).readStep.toBits.toNat = wordOf b.toList / 2 ^ 72 % 2 ^ 2 ∧
    (recordDesc b).writeStep.toBits.toNat = wordOf b.toList / 2 ^ 74 % 2 ^ 2 ∧
    (recordLast b).toNat = wordOf b.toList / 2 ^ 76 % 2 ∧
    (recordDesc b).reserved.toNat = wordOf b.toList / 2 ^ 77

/-! ## The address-space map -/

/-- R37, R128: a 24-bit address resolves by its low 22 bits, so addresses that agree in them reach the same byte (decision D8). -/
def Obligations.AddressesResolveModuloFourMiB : Prop :=
  (∀ a : Addr, (physOf a).toNat = a.toNat % 2 ^ 22 ∧ (pageOf a).toNat = a.toNat % 2 ^ 22 / 16384 ∧ (offsetOf a).toNat = a.toNat % 16384) ∧
  (∀ (s : State) (a b : Addr) (v : Byte), a.toNat % 2 ^ 22 = b.toNat % 2 ^ 22 →
    s.plat.slot a = s.plat.slot b ∧ busValue a s = busValue b s ∧ (busWrite a v s).ram = (busWrite b v s).ram)

/-- R39: a page nothing is bound to reads as `IDLE_MEM_BYTE` and ignores writes, for every value of it (decision D9). -/
def Obligations.UnboundPageReadsIdleAndIgnoresWrites : Prop :=
  ∀ (s : State) (a : Addr) (v : Byte), (∀ b ∈ s.plat.memMap, b.covers (a.toNat % 2 ^ 22 / 16384) = false) →
    busValue a s = s.plat.idleMem ∧
    masterRead a s = { s with trace := .read a s.plat.idleMem :: s.trace } ∧
    masterWrite a v s = { s with trace := .write a v :: s.trace }

/-- R41: a binding accepted leaves a correctly assembled machine, with the region's pages bound to the device; a misaligned region and one that
overlaps a bound slot are rejected (decision D10). -/
def Obligations.BindingsKeepTheMachineAssembled : Prop :=
  (∀ (p q : Platform) (base size : Nat) (d : Device), p.wf = true → p.bindMem base size d = .ok q →
    q.wf = true ∧ base % 16384 = 0 ∧ size % 16384 = 0 ∧
    (∀ page, page < 256 → q.entry page = if base / 16384 ≤ page ∧ page < (base + size) / 16384
      then some ⟨base / 16384, size / 16384, d⟩ else p.entry page)) ∧
  (∀ (p q : Platform) (port : Byte) (d : Device), p.wf = true → p.bindPort port d = .ok q →
    q.wf = true ∧ q.route port = .external d.id ∧ ∀ r, r ≠ port → q.route r = p.route r) ∧
  (∀ (p : Platform) (base size page : Nat) (d : Device), base / 16384 ≤ page → page < (base + size) / 16384 →
    base % 16384 = 0 → size % 16384 = 0 → base + size ≤ 2 ^ 22 → (p.entry page).isSome → p.bindMem base size d = .error .overlap)
end

