-- ==== Sys2Proof/Laws/Memory.lean ====
section
/-! SUPPORT. The laws of the RAM's bytes: every operation keeps the canonical form, and a read after a write gives the byte
written there and the old byte elsewhere. -/

namespace Sys2Proof.Machine

theorem Memory.wfFrom_mono {lo lo' : Nat} (h : lo' ≤ lo) : ∀ {m : Memory}, Memory.wfFrom lo m → Memory.wfFrom lo' m
  | [], _ => rfl
  | (k, v) :: m, hm => by simp only [wfFrom, Bool.and_eq_true, decide_eq_true_eq] at hm ⊢; exact ⟨⟨⟨by omega, hm.1.1.2⟩, hm.1.2⟩, hm.2⟩

/-- Below its bound a canonical list has no entry. -/
theorem Memory.read_below {m : Memory} {lo a : Nat} (hm : Memory.wfFrom lo m) (h : a < lo) : m.read a = Memory.blank := by
  induction m generalizing lo with
  | nil => rfl
  | cons c m ih =>
    obtain ⟨k, v⟩ := c
    simp only [wfFrom, Bool.and_eq_true, decide_eq_true_eq] at hm
    have hk : k ≠ a := by omega
    simp only [read, hk, if_false]
    exact ih hm.2 (by omega)

theorem Memory.erase_wfFrom {m : Memory} {lo : Nat} (a : Nat) (hm : Memory.wfFrom lo m) : Memory.wfFrom lo (Memory.erase a m) := by
  induction m generalizing lo with
  | nil => rfl
  | cons c m ih =>
    obtain ⟨k, v⟩ := c
    simp only [wfFrom, Bool.and_eq_true, decide_eq_true_eq] at hm
    simp only [erase]
    split
    · exact Memory.wfFrom_mono (by omega) hm.2
    · simp only [wfFrom, Bool.and_eq_true, decide_eq_true_eq]
      exact ⟨hm.1, ih hm.2⟩

theorem Memory.insert_wfFrom {m : Memory} {lo a : Nat} {v : Byte} (hm : Memory.wfFrom lo m) (hlo : lo ≤ a)
    (ha : a < Config.memSize) (hv : v ≠ Memory.blank) : Memory.wfFrom lo (Memory.insert a v m) := by
  induction m generalizing lo with
  | nil => simp [insert, wfFrom, hlo, ha, hv]
  | cons c m ih =>
    obtain ⟨k, u⟩ := c
    simp only [wfFrom, Bool.and_eq_true, decide_eq_true_eq] at hm
    simp only [insert]
    split
    · simp only [wfFrom, Bool.and_eq_true, decide_eq_true_eq]
      exact ⟨⟨⟨hlo, ha⟩, hv⟩, ⟨⟨by omega, hm.1.1.2⟩, hm.1.2⟩, hm.2⟩
    · split
      · subst k
        simp only [wfFrom, Bool.and_eq_true, decide_eq_true_eq]
        exact ⟨⟨⟨hlo, ha⟩, hv⟩, hm.2⟩
      · simp only [wfFrom, Bool.and_eq_true, decide_eq_true_eq]
        exact ⟨hm.1, ih hm.2 (by omega)⟩

/-- A write inside physical memory keeps the canonical form. -/
theorem Memory.write_wf {m : Memory} {a : Nat} {v : Byte} (hm : m.wf) (ha : a < Config.memSize) : (m.write a v).wf := by
  simp only [wf, write] at *
  split
  · exact Memory.erase_wfFrom a hm
  · exact Memory.insert_wfFrom hm (Nat.zero_le a) ha ‹_›

theorem Memory.read_erase {m : Memory} {lo : Nat} (hm : Memory.wfFrom lo m) (a b : Nat) :
    (Memory.erase a m).read b = if a = b then Memory.blank else m.read b := by
  induction m generalizing lo with
  | nil => simp [erase, read]
  | cons c m ih =>
    obtain ⟨k, u⟩ := c
    simp only [wfFrom, Bool.and_eq_true, decide_eq_true_eq] at hm
    simp only [erase]
    split
    · subst k
      by_cases hab : a = b
      · subst hab; simpa using Memory.read_below hm.2 (Nat.lt_succ_self a)
      · simp [read, hab]
    · rename_i hka
      by_cases hkb : k = b
      · subst hkb; simp [read, Ne.symm hka]
      · simp [read, hkb, ih hm.2]

theorem Memory.read_insert (m : Memory) (a b : Nat) (v : Byte) :
    (Memory.insert a v m).read b = if a = b then v else m.read b := by
  induction m with
  | nil => simp [insert, read]
  | cons c m ih =>
    obtain ⟨k, u⟩ := c
    simp only [insert]
    split
    · simp [read]
    · split
      · subst k; by_cases hab : a = b <;> simp [read, hab]
      · rename_i hka
        by_cases hkb : k = b
        · subst hkb; simp [read, Ne.symm hka]
        · simp [read, hkb, ih]

/-- The byte read after a write: the byte written at its address, the old byte elsewhere (R44). -/
theorem Memory.read_write {m : Memory} (hm : m.wf) {a : Nat} {v : Byte} {b : Nat} :
    (m.write a v).read b = if a = b then v else m.read b := by
  unfold write
  split
  · rename_i hv; rw [Memory.read_erase hm, hv]
  · exact Memory.read_insert m a b v

end Sys2Proof.Machine
end

