-- ==== Sys2Proof/Laws/State.lean ====
section
/-! SUPPORT. One lemma per field per update of the state: the setters, the draw counter, the bus log, the device log and the replies. -/

namespace Sys2Proof.Machine

@[simp] theorem State.setDescAddr_descAddr (a : Addr) (s : State) : (s.setDescAddr a).descAddr = a := rfl
@[simp] theorem State.setDescAddr_clk (a : Addr) (s : State) : (s.setDescAddr a).clk = s.clk := rfl
@[simp] theorem State.setDescAddr_walker (a : Addr) (s : State) : (s.setDescAddr a).walker = s.walker := rfl
@[simp] theorem State.setDescAddr_pending (a : Addr) (s : State) : (s.setDescAddr a).pending = s.pending := rfl
@[simp] theorem State.setDescAddr_work (a : Addr) (s : State) : (s.setDescAddr a).work = s.work := rfl
@[simp] theorem State.setDescAddr_plat (a : Addr) (s : State) : (s.setDescAddr a).plat = s.plat := rfl
@[simp] theorem State.setDescAddr_ram (a : Addr) (s : State) : (s.setDescAddr a).ram = s.ram := rfl
@[simp] theorem State.setDescAddr_devLog (a : Addr) (s : State) : (s.setDescAddr a).devLog = s.devLog := rfl
@[simp] theorem State.setDescAddr_trace (a : Addr) (s : State) : (s.setDescAddr a).trace = s.trace := rfl
@[simp] theorem State.setDescAddr_inputs (a : Addr) (s : State) : (s.setDescAddr a).inputs = s.inputs := rfl
@[simp] theorem State.setDescAddr_replies (a : Addr) (s : State) : (s.setDescAddr a).replies = s.replies := rfl
@[simp] theorem State.setDescAddr_draws (a : Addr) (s : State) : (s.setDescAddr a).draws = s.draws := rfl
@[simp] theorem State.setDescAddr_pace (a : Addr) (s : State) : (s.setDescAddr a).pace = s.pace := rfl

@[simp] theorem State.setClk_descAddr (v : Byte) (s : State) : (s.setClk v).descAddr = s.descAddr := rfl
@[simp] theorem State.setClk_clk (v : Byte) (s : State) : (s.setClk v).clk = v := rfl
@[simp] theorem State.setClk_walker (v : Byte) (s : State) : (s.setClk v).walker = s.walker := rfl
@[simp] theorem State.setClk_pending (v : Byte) (s : State) : (s.setClk v).pending = s.pending := rfl
@[simp] theorem State.setClk_work (v : Byte) (s : State) : (s.setClk v).work = s.work := rfl
@[simp] theorem State.setClk_plat (v : Byte) (s : State) : (s.setClk v).plat = s.plat := rfl
@[simp] theorem State.setClk_ram (v : Byte) (s : State) : (s.setClk v).ram = s.ram := rfl
@[simp] theorem State.setClk_devLog (v : Byte) (s : State) : (s.setClk v).devLog = s.devLog := rfl
@[simp] theorem State.setClk_trace (v : Byte) (s : State) : (s.setClk v).trace = s.trace := rfl
@[simp] theorem State.setClk_inputs (v : Byte) (s : State) : (s.setClk v).inputs = s.inputs := rfl
@[simp] theorem State.setClk_replies (v : Byte) (s : State) : (s.setClk v).replies = s.replies := rfl
@[simp] theorem State.setClk_draws (v : Byte) (s : State) : (s.setClk v).draws = s.draws := rfl
@[simp] theorem State.setClk_pace (v : Byte) (s : State) : (s.setClk v).pace = s.pace := rfl

@[simp] theorem State.setWalker_descAddr (w : Walker) (s : State) : (s.setWalker w).descAddr = s.descAddr := rfl
@[simp] theorem State.setWalker_clk (w : Walker) (s : State) : (s.setWalker w).clk = s.clk := rfl
@[simp] theorem State.setWalker_walker (w : Walker) (s : State) : (s.setWalker w).walker = w := rfl
@[simp] theorem State.setWalker_pending (w : Walker) (s : State) : (s.setWalker w).pending = s.pending := rfl
@[simp] theorem State.setWalker_work (w : Walker) (s : State) : (s.setWalker w).work = s.work := rfl
@[simp] theorem State.setWalker_plat (w : Walker) (s : State) : (s.setWalker w).plat = s.plat := rfl
@[simp] theorem State.setWalker_ram (w : Walker) (s : State) : (s.setWalker w).ram = s.ram := rfl
@[simp] theorem State.setWalker_devLog (w : Walker) (s : State) : (s.setWalker w).devLog = s.devLog := rfl
@[simp] theorem State.setWalker_trace (w : Walker) (s : State) : (s.setWalker w).trace = s.trace := rfl
@[simp] theorem State.setWalker_inputs (w : Walker) (s : State) : (s.setWalker w).inputs = s.inputs := rfl
@[simp] theorem State.setWalker_replies (w : Walker) (s : State) : (s.setWalker w).replies = s.replies := rfl
@[simp] theorem State.setWalker_draws (w : Walker) (s : State) : (s.setWalker w).draws = s.draws := rfl
@[simp] theorem State.setWalker_pace (w : Walker) (s : State) : (s.setWalker w).pace = s.pace := rfl

@[simp] theorem State.setPending_descAddr (b : Bool) (s : State) : (s.setPending b).descAddr = s.descAddr := rfl
@[simp] theorem State.setPending_clk (b : Bool) (s : State) : (s.setPending b).clk = s.clk := rfl
@[simp] theorem State.setPending_walker (b : Bool) (s : State) : (s.setPending b).walker = s.walker := rfl
@[simp] theorem State.setPending_pending (b : Bool) (s : State) : (s.setPending b).pending = b := rfl
@[simp] theorem State.setPending_work (b : Bool) (s : State) : (s.setPending b).work = s.work := rfl
@[simp] theorem State.setPending_plat (b : Bool) (s : State) : (s.setPending b).plat = s.plat := rfl
@[simp] theorem State.setPending_ram (b : Bool) (s : State) : (s.setPending b).ram = s.ram := rfl
@[simp] theorem State.setPending_devLog (b : Bool) (s : State) : (s.setPending b).devLog = s.devLog := rfl
@[simp] theorem State.setPending_trace (b : Bool) (s : State) : (s.setPending b).trace = s.trace := rfl
@[simp] theorem State.setPending_inputs (b : Bool) (s : State) : (s.setPending b).inputs = s.inputs := rfl
@[simp] theorem State.setPending_replies (b : Bool) (s : State) : (s.setPending b).replies = s.replies := rfl
@[simp] theorem State.setPending_draws (b : Bool) (s : State) : (s.setPending b).draws = s.draws := rfl
@[simp] theorem State.setPending_pace (b : Bool) (s : State) : (s.setPending b).pace = s.pace := rfl

@[simp] theorem State.setWork_descAddr (w : Work) (s : State) : (s.setWork w).descAddr = s.descAddr := rfl
@[simp] theorem State.setWork_clk (w : Work) (s : State) : (s.setWork w).clk = s.clk := rfl
@[simp] theorem State.setWork_walker (w : Work) (s : State) : (s.setWork w).walker = s.walker := rfl
@[simp] theorem State.setWork_pending (w : Work) (s : State) : (s.setWork w).pending = s.pending := rfl
@[simp] theorem State.setWork_work (w : Work) (s : State) : (s.setWork w).work = w := rfl
@[simp] theorem State.setWork_plat (w : Work) (s : State) : (s.setWork w).plat = s.plat := rfl
@[simp] theorem State.setWork_ram (w : Work) (s : State) : (s.setWork w).ram = s.ram := rfl
@[simp] theorem State.setWork_devLog (w : Work) (s : State) : (s.setWork w).devLog = s.devLog := rfl
@[simp] theorem State.setWork_trace (w : Work) (s : State) : (s.setWork w).trace = s.trace := rfl
@[simp] theorem State.setWork_inputs (w : Work) (s : State) : (s.setWork w).inputs = s.inputs := rfl
@[simp] theorem State.setWork_replies (w : Work) (s : State) : (s.setWork w).replies = s.replies := rfl
@[simp] theorem State.setWork_draws (w : Work) (s : State) : (s.setWork w).draws = s.draws := rfl
@[simp] theorem State.setWork_pace (w : Work) (s : State) : (s.setWork w).pace = s.pace := rfl

@[simp] theorem State.setPlat_descAddr (p : Platform) (s : State) : (s.setPlat p).descAddr = s.descAddr := rfl
@[simp] theorem State.setPlat_clk (p : Platform) (s : State) : (s.setPlat p).clk = s.clk := rfl
@[simp] theorem State.setPlat_walker (p : Platform) (s : State) : (s.setPlat p).walker = s.walker := rfl
@[simp] theorem State.setPlat_pending (p : Platform) (s : State) : (s.setPlat p).pending = s.pending := rfl
@[simp] theorem State.setPlat_work (p : Platform) (s : State) : (s.setPlat p).work = s.work := rfl
@[simp] theorem State.setPlat_plat (p : Platform) (s : State) : (s.setPlat p).plat = p := rfl
@[simp] theorem State.setPlat_ram (p : Platform) (s : State) : (s.setPlat p).ram = s.ram := rfl
@[simp] theorem State.setPlat_devLog (p : Platform) (s : State) : (s.setPlat p).devLog = s.devLog := rfl
@[simp] theorem State.setPlat_trace (p : Platform) (s : State) : (s.setPlat p).trace = s.trace := rfl
@[simp] theorem State.setPlat_inputs (p : Platform) (s : State) : (s.setPlat p).inputs = s.inputs := rfl
@[simp] theorem State.setPlat_replies (p : Platform) (s : State) : (s.setPlat p).replies = s.replies := rfl
@[simp] theorem State.setPlat_draws (p : Platform) (s : State) : (s.setPlat p).draws = s.draws := rfl
@[simp] theorem State.setPlat_pace (p : Platform) (s : State) : (s.setPlat p).pace = s.pace := rfl

@[simp] theorem State.setRam_descAddr (m : Memory) (s : State) : (s.setRam m).descAddr = s.descAddr := rfl
@[simp] theorem State.setRam_clk (m : Memory) (s : State) : (s.setRam m).clk = s.clk := rfl
@[simp] theorem State.setRam_walker (m : Memory) (s : State) : (s.setRam m).walker = s.walker := rfl
@[simp] theorem State.setRam_pending (m : Memory) (s : State) : (s.setRam m).pending = s.pending := rfl
@[simp] theorem State.setRam_work (m : Memory) (s : State) : (s.setRam m).work = s.work := rfl
@[simp] theorem State.setRam_plat (m : Memory) (s : State) : (s.setRam m).plat = s.plat := rfl
@[simp] theorem State.setRam_ram (m : Memory) (s : State) : (s.setRam m).ram = m := rfl
@[simp] theorem State.setRam_devLog (m : Memory) (s : State) : (s.setRam m).devLog = s.devLog := rfl
@[simp] theorem State.setRam_trace (m : Memory) (s : State) : (s.setRam m).trace = s.trace := rfl
@[simp] theorem State.setRam_inputs (m : Memory) (s : State) : (s.setRam m).inputs = s.inputs := rfl
@[simp] theorem State.setRam_replies (m : Memory) (s : State) : (s.setRam m).replies = s.replies := rfl
@[simp] theorem State.setRam_draws (m : Memory) (s : State) : (s.setRam m).draws = s.draws := rfl
@[simp] theorem State.setRam_pace (m : Memory) (s : State) : (s.setRam m).pace = s.pace := rfl

@[simp] theorem State.setInputs_descAddr (es : List Event) (s : State) : (s.setInputs es).descAddr = s.descAddr := rfl
@[simp] theorem State.setInputs_clk (es : List Event) (s : State) : (s.setInputs es).clk = s.clk := rfl
@[simp] theorem State.setInputs_walker (es : List Event) (s : State) : (s.setInputs es).walker = s.walker := rfl
@[simp] theorem State.setInputs_pending (es : List Event) (s : State) : (s.setInputs es).pending = s.pending := rfl
@[simp] theorem State.setInputs_work (es : List Event) (s : State) : (s.setInputs es).work = s.work := rfl
@[simp] theorem State.setInputs_plat (es : List Event) (s : State) : (s.setInputs es).plat = s.plat := rfl
@[simp] theorem State.setInputs_ram (es : List Event) (s : State) : (s.setInputs es).ram = s.ram := rfl
@[simp] theorem State.setInputs_devLog (es : List Event) (s : State) : (s.setInputs es).devLog = s.devLog := rfl
@[simp] theorem State.setInputs_trace (es : List Event) (s : State) : (s.setInputs es).trace = s.trace := rfl
@[simp] theorem State.setInputs_inputs (es : List Event) (s : State) : (s.setInputs es).inputs = es := rfl
@[simp] theorem State.setInputs_replies (es : List Event) (s : State) : (s.setInputs es).replies = s.replies := rfl
@[simp] theorem State.setInputs_draws (es : List Event) (s : State) : (s.setInputs es).draws = s.draws := rfl
@[simp] theorem State.setInputs_pace (es : List Event) (s : State) : (s.setInputs es).pace = s.pace := rfl

@[simp] theorem State.setPace_descAddr (p : Pace) (s : State) : (s.setPace p).descAddr = s.descAddr := rfl
@[simp] theorem State.setPace_clk (p : Pace) (s : State) : (s.setPace p).clk = s.clk := rfl
@[simp] theorem State.setPace_walker (p : Pace) (s : State) : (s.setPace p).walker = s.walker := rfl
@[simp] theorem State.setPace_pending (p : Pace) (s : State) : (s.setPace p).pending = s.pending := rfl
@[simp] theorem State.setPace_work (p : Pace) (s : State) : (s.setPace p).work = s.work := rfl
@[simp] theorem State.setPace_plat (p : Pace) (s : State) : (s.setPace p).plat = s.plat := rfl
@[simp] theorem State.setPace_ram (p : Pace) (s : State) : (s.setPace p).ram = s.ram := rfl
@[simp] theorem State.setPace_devLog (p : Pace) (s : State) : (s.setPace p).devLog = s.devLog := rfl
@[simp] theorem State.setPace_trace (p : Pace) (s : State) : (s.setPace p).trace = s.trace := rfl
@[simp] theorem State.setPace_inputs (p : Pace) (s : State) : (s.setPace p).inputs = s.inputs := rfl
@[simp] theorem State.setPace_replies (p : Pace) (s : State) : (s.setPace p).replies = s.replies := rfl
@[simp] theorem State.setPace_draws (p : Pace) (s : State) : (s.setPace p).draws = s.draws := rfl
@[simp] theorem State.setPace_pace (p : Pace) (s : State) : (s.setPace p).pace = p := rfl

@[simp] theorem State.drawn_descAddr (s : State) : s.drawn.descAddr = s.descAddr := rfl
@[simp] theorem State.drawn_clk (s : State) : s.drawn.clk = s.clk := rfl
@[simp] theorem State.drawn_walker (s : State) : s.drawn.walker = s.walker := rfl
@[simp] theorem State.drawn_pending (s : State) : s.drawn.pending = s.pending := rfl
@[simp] theorem State.drawn_work (s : State) : s.drawn.work = s.work := rfl
@[simp] theorem State.drawn_plat (s : State) : s.drawn.plat = s.plat := rfl
@[simp] theorem State.drawn_ram (s : State) : s.drawn.ram = s.ram := rfl
@[simp] theorem State.drawn_devLog (s : State) : s.drawn.devLog = s.devLog := rfl
@[simp] theorem State.drawn_trace (s : State) : s.drawn.trace = s.trace := rfl
@[simp] theorem State.drawn_inputs (s : State) : s.drawn.inputs = s.inputs := rfl
@[simp] theorem State.drawn_replies (s : State) : s.drawn.replies = s.replies := rfl
@[simp] theorem State.drawn_draws (s : State) : s.drawn.draws = s.draws + 1 := rfl
@[simp] theorem State.drawn_pace (s : State) : s.drawn.pace = s.pace := rfl

@[simp] theorem State.log_descAddr (op : BusOp) (s : State) : (s.log op).descAddr = s.descAddr := rfl
@[simp] theorem State.log_clk (op : BusOp) (s : State) : (s.log op).clk = s.clk := rfl
@[simp] theorem State.log_walker (op : BusOp) (s : State) : (s.log op).walker = s.walker := rfl
@[simp] theorem State.log_pending (op : BusOp) (s : State) : (s.log op).pending = s.pending := rfl
@[simp] theorem State.log_work (op : BusOp) (s : State) : (s.log op).work = s.work := rfl
@[simp] theorem State.log_plat (op : BusOp) (s : State) : (s.log op).plat = s.plat := rfl
@[simp] theorem State.log_ram (op : BusOp) (s : State) : (s.log op).ram = s.ram := rfl
@[simp] theorem State.log_devLog (op : BusOp) (s : State) : (s.log op).devLog = s.devLog := rfl
@[simp] theorem State.log_trace (op : BusOp) (s : State) : (s.log op).trace = op :: s.trace := rfl
@[simp] theorem State.log_inputs (op : BusOp) (s : State) : (s.log op).inputs = s.inputs := rfl
@[simp] theorem State.log_replies (op : BusOp) (s : State) : (s.log op).replies = s.replies := rfl
@[simp] theorem State.log_draws (op : BusOp) (s : State) : (s.log op).draws = s.draws := rfl
@[simp] theorem State.log_pace (op : BusOp) (s : State) : (s.log op).pace = s.pace := rfl

@[simp] theorem State.reply_descAddr (r : Reply) (s : State) : (s.reply r).descAddr = s.descAddr := rfl
@[simp] theorem State.reply_clk (r : Reply) (s : State) : (s.reply r).clk = s.clk := rfl
@[simp] theorem State.reply_walker (r : Reply) (s : State) : (s.reply r).walker = s.walker := rfl
@[simp] theorem State.reply_pending (r : Reply) (s : State) : (s.reply r).pending = s.pending := rfl
@[simp] theorem State.reply_work (r : Reply) (s : State) : (s.reply r).work = s.work := rfl
@[simp] theorem State.reply_plat (r : Reply) (s : State) : (s.reply r).plat = s.plat := rfl
@[simp] theorem State.reply_ram (r : Reply) (s : State) : (s.reply r).ram = s.ram := rfl
@[simp] theorem State.reply_devLog (r : Reply) (s : State) : (s.reply r).devLog = s.devLog := rfl
@[simp] theorem State.reply_trace (r : Reply) (s : State) : (s.reply r).trace = s.trace := rfl
@[simp] theorem State.reply_inputs (r : Reply) (s : State) : (s.reply r).inputs = s.inputs := rfl
@[simp] theorem State.reply_replies (r : Reply) (s : State) : (s.reply r).replies = r :: s.replies := rfl
@[simp] theorem State.reply_draws (r : Reply) (s : State) : (s.reply r).draws = s.draws := rfl
@[simp] theorem State.reply_pace (r : Reply) (s : State) : (s.reply r).pace = s.pace := rfl

@[simp] theorem State.logDevice_descAddr (dev : Nat) (op : DeviceOp) (s : State) : (s.logDevice dev op).descAddr = s.descAddr := rfl
@[simp] theorem State.logDevice_clk (dev : Nat) (op : DeviceOp) (s : State) : (s.logDevice dev op).clk = s.clk := rfl
@[simp] theorem State.logDevice_walker (dev : Nat) (op : DeviceOp) (s : State) : (s.logDevice dev op).walker = s.walker := rfl
@[simp] theorem State.logDevice_pending (dev : Nat) (op : DeviceOp) (s : State) : (s.logDevice dev op).pending = s.pending := rfl
@[simp] theorem State.logDevice_work (dev : Nat) (op : DeviceOp) (s : State) : (s.logDevice dev op).work = s.work := rfl
@[simp] theorem State.logDevice_plat (dev : Nat) (op : DeviceOp) (s : State) : (s.logDevice dev op).plat = s.plat := rfl
@[simp] theorem State.logDevice_ram (dev : Nat) (op : DeviceOp) (s : State) : (s.logDevice dev op).ram = s.ram := rfl
@[simp] theorem State.logDevice_devLog (dev : Nat) (op : DeviceOp) (s : State) : (s.logDevice dev op).devLog = ⟨dev, op⟩ :: s.devLog := rfl
@[simp] theorem State.logDevice_trace (dev : Nat) (op : DeviceOp) (s : State) : (s.logDevice dev op).trace = s.trace := rfl
@[simp] theorem State.logDevice_inputs (dev : Nat) (op : DeviceOp) (s : State) : (s.logDevice dev op).inputs = s.inputs := rfl
@[simp] theorem State.logDevice_replies (dev : Nat) (op : DeviceOp) (s : State) : (s.logDevice dev op).replies = s.replies := rfl
@[simp] theorem State.logDevice_draws (dev : Nat) (op : DeviceOp) (s : State) : (s.logDevice dev op).draws = s.draws := rfl
@[simp] theorem State.logDevice_pace (dev : Nat) (op : DeviceOp) (s : State) : (s.logDevice dev op).pace = s.pace := rfl

@[simp] theorem State.forgetWork_descAddr (s : State) : s.forgetWork.descAddr = s.descAddr := rfl
@[simp] theorem State.forgetWork_clk (s : State) : s.forgetWork.clk = s.clk := rfl
@[simp] theorem State.forgetWork_walker (s : State) : s.forgetWork.walker = s.walker := rfl
@[simp] theorem State.forgetWork_pending (s : State) : s.forgetWork.pending = s.pending := rfl
@[simp] theorem State.forgetWork_work (s : State) : s.forgetWork.work = Work.free s.draws := rfl
@[simp] theorem State.forgetWork_plat (s : State) : s.forgetWork.plat = s.plat := rfl
@[simp] theorem State.forgetWork_ram (s : State) : s.forgetWork.ram = s.ram := rfl
@[simp] theorem State.forgetWork_devLog (s : State) : s.forgetWork.devLog = s.devLog := rfl
@[simp] theorem State.forgetWork_trace (s : State) : s.forgetWork.trace = s.trace := rfl
@[simp] theorem State.forgetWork_inputs (s : State) : s.forgetWork.inputs = s.inputs := rfl
@[simp] theorem State.forgetWork_replies (s : State) : s.forgetWork.replies = s.replies := rfl
@[simp] theorem State.forgetWork_draws (s : State) : s.forgetWork.draws = s.draws + 1 := rfl
@[simp] theorem State.forgetWork_pace (s : State) : s.forgetWork.pace = s.pace := rfl

end Sys2Proof.Machine
end

