-- ==== Sys2Proof/Laws/Ops.lean ====
section
/-! SUPPORT. What each shared operation can do, once: the bus accesses, the slave port, the latch, the record fetch, the copy, the
end of a record, and the requester's events. -/

namespace Sys2Proof.Machine

/-! ## Bus accesses -/

/-- A bus read changes nothing but that an external device has got it (R35, R38). -/
theorem afterRead_eq (a : Addr) (s : State) :
    ((∀ dev, s.plat.slot a ≠ .external dev) ∧ afterRead a s = s) ∨
    ∃ dev, s.plat.slot a = .external dev ∧ afterRead a s = s.logDevice dev (.read (offsetOf a)) := by
  unfold afterRead; split <;> simp_all

/-- A bus write changes nothing but the RAM byte under its address in a RAM page, or that an external device has got it (R35, R38). -/
theorem busWrite_eq (a : Addr) (v : Byte) (s : State) :
    (s.plat.slot a = .ram ∧ busWrite a v s = s.setRam (s.ram.write (physOf a).toNat v)) ∨
    (s.plat.slot a = .unbound ∧ busWrite a v s = s) ∨
    ∃ dev, s.plat.slot a = .external dev ∧ busWrite a v s = s.logDevice dev (.write (offsetOf a) v) := by
  unfold busWrite; split <;> simp_all

theorem afterRead_of_ram {a : Addr} {s : State} (h : s.plat.slot a = .ram) : afterRead a s = s := by
  simp [afterRead, h]

theorem busValue_of_ram {a : Addr} {s : State} (h : s.plat.slot a = .ram) : busValue a s = s.peek a := by
  simp [busValue, h, State.peek]

theorem busWrite_of_ram {a : Addr} {v : Byte} {s : State} (h : s.plat.slot a = .ram) :
    busWrite a v s = s.setRam (s.ram.write (physOf a).toNat v) := by
  simp [busWrite, h]

@[simp] theorem afterRead_descAddr (a : Addr) (s : State) : (afterRead a s).descAddr = s.descAddr := by
  rcases afterRead_eq a s with ⟨-, h⟩ | ⟨_, -, h⟩ <;> simp [h]
@[simp] theorem afterRead_clk (a : Addr) (s : State) : (afterRead a s).clk = s.clk := by
  rcases afterRead_eq a s with ⟨-, h⟩ | ⟨_, -, h⟩ <;> simp [h]
@[simp] theorem afterRead_walker (a : Addr) (s : State) : (afterRead a s).walker = s.walker := by
  rcases afterRead_eq a s with ⟨-, h⟩ | ⟨_, -, h⟩ <;> simp [h]
@[simp] theorem afterRead_pending (a : Addr) (s : State) : (afterRead a s).pending = s.pending := by
  rcases afterRead_eq a s with ⟨-, h⟩ | ⟨_, -, h⟩ <;> simp [h]
@[simp] theorem afterRead_work (a : Addr) (s : State) : (afterRead a s).work = s.work := by
  rcases afterRead_eq a s with ⟨-, h⟩ | ⟨_, -, h⟩ <;> simp [h]
@[simp] theorem afterRead_plat (a : Addr) (s : State) : (afterRead a s).plat = s.plat := by
  rcases afterRead_eq a s with ⟨-, h⟩ | ⟨_, -, h⟩ <;> simp [h]
@[simp] theorem afterRead_ram (a : Addr) (s : State) : (afterRead a s).ram = s.ram := by
  rcases afterRead_eq a s with ⟨-, h⟩ | ⟨_, -, h⟩ <;> simp [h]
@[simp] theorem afterRead_trace (a : Addr) (s : State) : (afterRead a s).trace = s.trace := by
  rcases afterRead_eq a s with ⟨-, h⟩ | ⟨_, -, h⟩ <;> simp [h]
@[simp] theorem afterRead_inputs (a : Addr) (s : State) : (afterRead a s).inputs = s.inputs := by
  rcases afterRead_eq a s with ⟨-, h⟩ | ⟨_, -, h⟩ <;> simp [h]
@[simp] theorem afterRead_replies (a : Addr) (s : State) : (afterRead a s).replies = s.replies := by
  rcases afterRead_eq a s with ⟨-, h⟩ | ⟨_, -, h⟩ <;> simp [h]
@[simp] theorem afterRead_draws (a : Addr) (s : State) : (afterRead a s).draws = s.draws := by
  rcases afterRead_eq a s with ⟨-, h⟩ | ⟨_, -, h⟩ <;> simp [h]
@[simp] theorem afterRead_pace (a : Addr) (s : State) : (afterRead a s).pace = s.pace := by
  rcases afterRead_eq a s with ⟨-, h⟩ | ⟨_, -, h⟩ <;> simp [h]
@[simp] theorem busWrite_descAddr (a : Addr) (v : Byte) (s : State) : (busWrite a v s).descAddr = s.descAddr := by
  rcases busWrite_eq a v s with ⟨-, h⟩ | ⟨-, h⟩ | ⟨_, -, h⟩ <;> simp [h]
@[simp] theorem busWrite_clk (a : Addr) (v : Byte) (s : State) : (busWrite a v s).clk = s.clk := by
  rcases busWrite_eq a v s with ⟨-, h⟩ | ⟨-, h⟩ | ⟨_, -, h⟩ <;> simp [h]
@[simp] theorem busWrite_walker (a : Addr) (v : Byte) (s : State) : (busWrite a v s).walker = s.walker := by
  rcases busWrite_eq a v s with ⟨-, h⟩ | ⟨-, h⟩ | ⟨_, -, h⟩ <;> simp [h]
@[simp] theorem busWrite_pending (a : Addr) (v : Byte) (s : State) : (busWrite a v s).pending = s.pending := by
  rcases busWrite_eq a v s with ⟨-, h⟩ | ⟨-, h⟩ | ⟨_, -, h⟩ <;> simp [h]
@[simp] theorem busWrite_work (a : Addr) (v : Byte) (s : State) : (busWrite a v s).work = s.work := by
  rcases busWrite_eq a v s with ⟨-, h⟩ | ⟨-, h⟩ | ⟨_, -, h⟩ <;> simp [h]
@[simp] theorem busWrite_plat (a : Addr) (v : Byte) (s : State) : (busWrite a v s).plat = s.plat := by
  rcases busWrite_eq a v s with ⟨-, h⟩ | ⟨-, h⟩ | ⟨_, -, h⟩ <;> simp [h]
@[simp] theorem busWrite_trace (a : Addr) (v : Byte) (s : State) : (busWrite a v s).trace = s.trace := by
  rcases busWrite_eq a v s with ⟨-, h⟩ | ⟨-, h⟩ | ⟨_, -, h⟩ <;> simp [h]
@[simp] theorem busWrite_inputs (a : Addr) (v : Byte) (s : State) : (busWrite a v s).inputs = s.inputs := by
  rcases busWrite_eq a v s with ⟨-, h⟩ | ⟨-, h⟩ | ⟨_, -, h⟩ <;> simp [h]
@[simp] theorem busWrite_replies (a : Addr) (v : Byte) (s : State) : (busWrite a v s).replies = s.replies := by
  rcases busWrite_eq a v s with ⟨-, h⟩ | ⟨-, h⟩ | ⟨_, -, h⟩ <;> simp [h]
@[simp] theorem busWrite_draws (a : Addr) (v : Byte) (s : State) : (busWrite a v s).draws = s.draws := by
  rcases busWrite_eq a v s with ⟨-, h⟩ | ⟨-, h⟩ | ⟨_, -, h⟩ <;> simp [h]
@[simp] theorem busWrite_pace (a : Addr) (v : Byte) (s : State) : (busWrite a v s).pace = s.pace := by
  rcases busWrite_eq a v s with ⟨-, h⟩ | ⟨-, h⟩ | ⟨_, -, h⟩ <;> simp [h]

@[simp] theorem masterRead_descAddr (a : Addr) (s : State) : (masterRead a s).descAddr = s.descAddr := by simp [masterRead]
@[simp] theorem masterRead_clk (a : Addr) (s : State) : (masterRead a s).clk = s.clk := by simp [masterRead]
@[simp] theorem masterRead_walker (a : Addr) (s : State) : (masterRead a s).walker = s.walker := by simp [masterRead]
@[simp] theorem masterRead_pending (a : Addr) (s : State) : (masterRead a s).pending = s.pending := by simp [masterRead]
@[simp] theorem masterRead_work (a : Addr) (s : State) : (masterRead a s).work = s.work := by simp [masterRead]
@[simp] theorem masterRead_plat (a : Addr) (s : State) : (masterRead a s).plat = s.plat := by simp [masterRead]
@[simp] theorem masterRead_ram (a : Addr) (s : State) : (masterRead a s).ram = s.ram := by simp [masterRead]
@[simp] theorem masterRead_trace (a : Addr) (s : State) : (masterRead a s).trace = .read a (busValue a s) :: s.trace := by simp [masterRead]
@[simp] theorem masterRead_inputs (a : Addr) (s : State) : (masterRead a s).inputs = s.inputs := by simp [masterRead]
@[simp] theorem masterRead_replies (a : Addr) (s : State) : (masterRead a s).replies = s.replies := by simp [masterRead]
@[simp] theorem masterRead_draws (a : Addr) (s : State) : (masterRead a s).draws = s.draws := by simp [masterRead]
@[simp] theorem masterRead_pace (a : Addr) (s : State) : (masterRead a s).pace = s.pace := by simp [masterRead]
@[simp] theorem masterWrite_descAddr (a : Addr) (v : Byte) (s : State) : (masterWrite a v s).descAddr = s.descAddr := by simp [masterWrite]
@[simp] theorem masterWrite_clk (a : Addr) (v : Byte) (s : State) : (masterWrite a v s).clk = s.clk := by simp [masterWrite]
@[simp] theorem masterWrite_walker (a : Addr) (v : Byte) (s : State) : (masterWrite a v s).walker = s.walker := by simp [masterWrite]
@[simp] theorem masterWrite_pending (a : Addr) (v : Byte) (s : State) : (masterWrite a v s).pending = s.pending := by simp [masterWrite]
@[simp] theorem masterWrite_work (a : Addr) (v : Byte) (s : State) : (masterWrite a v s).work = s.work := by simp [masterWrite]
@[simp] theorem masterWrite_plat (a : Addr) (v : Byte) (s : State) : (masterWrite a v s).plat = s.plat := by simp [masterWrite]
@[simp] theorem masterWrite_trace (a : Addr) (v : Byte) (s : State) : (masterWrite a v s).trace = .write a v :: s.trace := by simp [masterWrite]
@[simp] theorem masterWrite_inputs (a : Addr) (v : Byte) (s : State) : (masterWrite a v s).inputs = s.inputs := by simp [masterWrite]
@[simp] theorem masterWrite_replies (a : Addr) (v : Byte) (s : State) : (masterWrite a v s).replies = s.replies := by simp [masterWrite]
@[simp] theorem masterWrite_draws (a : Addr) (v : Byte) (s : State) : (masterWrite a v s).draws = s.draws := by simp [masterWrite]
@[simp] theorem masterWrite_pace (a : Addr) (v : Byte) (s : State) : (masterWrite a v s).pace = s.pace := by simp [masterWrite]

/-- The byte a read returns after a write elsewhere or to the same physical byte (R38, R44). -/
theorem peek_masterWrite_of_ram {a : Addr} {v : Byte} {s : State} (h : s.plat.slot a = .ram) (hw : s.ram.wf) (b : Addr) :
    (masterWrite a v s).peek b = if physOf a = physOf b then v else s.peek b := by
  simp only [masterWrite, busWrite_of_ram h, State.peek, State.log_ram, State.setRam_ram, Memory.read_write hw]
  congr 1
  simp [BitVec.toNat_inj]

@[simp] theorem peek_masterRead (a b : Addr) (s : State) : (masterRead a s).peek b = s.peek b := by
  simp [State.peek]

/-- What a device has got after one more access to some device: one more if it is the one, else what it had (R35; P2's no cross-talk). -/
@[simp] theorem devicePast_logDevice (dev dev' : Nat) (op : DeviceOp) (s : State) :
    (s.logDevice dev op).devicePast dev' = if dev = dev' then op :: s.devicePast dev' else s.devicePast dev' := by
  simp only [State.devicePast, State.logDevice, List.filter_cons, decide_eq_true_eq]
  split <;> simp

/-! ## Address resolution -/

/-- A port is the engine's at an offset exactly when it is that far above `DMA_IO_BASE`, and the offset is at most 4 (R42). -/
theorem Platform.route_eq_engine_iff {p : Platform} {q : Byte} {off : BitVec 3} :
    p.route q = .engine off ↔ off.toNat ≤ 4 ∧ q.toNat = p.ioBase.val + off.toNat := by
  unfold Platform.route
  split
  · simp only [Port.engine.injEq]
    constructor
    · rintro rfl; simp only [BitVec.toNat_ofNat]; omega
    · rintro ⟨_, h⟩; rw [h]; simp
  · constructor
    · split <;> simp
    · omega

@[simp] theorem State.isRam_iff (s : State) (a : Addr) : s.isRam a = true ↔ s.plat.slot a = .ram := by simp [State.isRam]

/-- The page-relative offset is the low 14 bits of the address (R37). -/
theorem offsetOf_eq (a : Addr) : offsetOf a = a.extractLsb' 0 14 := by
  apply BitVec.eq_of_toNat_eq; simp [offsetOf, physOf]

theorem physOf_toNat (a : Addr) : (physOf a).toNat = a.toNat % 2 ^ 22 := by simp [physOf]

/-! ## Bytes of `desc_addr` -/

/-- The bits of `desc_addr` after a write of its low byte (R71). -/
theorem getLsbD_withByte0 (x : Addr) (v : Byte) (i : Nat) :
    (withByte0 x v).getLsbD i = if i < 8 then v.getLsbD i else x.getLsbD i := by
  simp only [withByte0, BitVec.getLsbD_append, BitVec.getLsbD_extractLsb']
  by_cases h : i < 8 <;> simp only [h, if_true, if_false]
  by_cases h2 : i < 24
  · rw [show 8 + (i - 8) = i by omega]; simp; omega
  · rw [BitVec.getLsbD_of_ge x i (by omega)]; simp; omega

/-- The bits of `desc_addr` after a write of its middle byte (R72). -/
theorem getLsbD_withByte1 (x : Addr) (v : Byte) (i : Nat) :
    (withByte1 x v).getLsbD i = if i < 8 then x.getLsbD i else if i < 16 then v.getLsbD (i - 8) else x.getLsbD i := by
  simp only [withByte1, BitVec.getLsbD_append, BitVec.getLsbD_extractLsb']
  by_cases h : i < 8
  · simp [h]
  by_cases h1 : i < 16
  · simp only [h, h1, show i - 8 < 8 by omega, if_true, if_false, decide_false]
  · simp only [h, h1, show ¬ i - 8 < 8 by omega, if_false, decide_false]
    by_cases h2 : i < 24
    · rw [show 16 + (i - 8 - 8) = i by omega]; simp; omega
    · rw [BitVec.getLsbD_of_ge x i (by omega)]; simp; omega

/-- The bits of `desc_addr` after a write of its high byte (R73). -/
theorem getLsbD_withByte2 (x : Addr) (v : Byte) (i : Nat) :
    (withByte2 x v).getLsbD i = if i < 16 then x.getLsbD i else v.getLsbD (i - 16) := by
  simp only [withByte2, BitVec.getLsbD_append, BitVec.getLsbD_extractLsb']
  by_cases h : i < 16 <;> simp [h]

/-! ## The slave port -/

theorem portRead_of_idle {s : State} (v : Byte) (h : s.walker = .idle) : portRead v s = .next (s.reply (.data v)) := by
  simp [portRead, h]

theorem portRead_of_busy {s : State} (v : Byte) (h : s.busy) : portRead v s = .next s := by
  unfold portRead; unfold State.busy at h; split <;> simp_all

theorem portWrite_of_idle {s : State} (f : State → State) (h : s.walker = .idle) : portWrite f s = .next ((f s).reply .done) := by
  simp [portWrite, h]

theorem portWrite_of_busy {s : State} (f : State → State) (h : s.busy) : portWrite f s = .next s := by
  unfold portWrite; unfold State.busy at h; split <;> simp_all

/-- A state is BUSY exactly when its walker is not IDLE (R24). -/
theorem busy_iff (s : State) : s.busy = true ↔ s.walker ≠ .idle := by
  unfold State.busy; split <;> simp_all

/-! ## Fetch, latch and copy: the fields they leave alone -/

@[simp] theorem latch_descAddr (d : Desc) (last : Bool) (s : State) : (latch d last s).descAddr = s.descAddr := rfl
@[simp] theorem latch_clk (d : Desc) (last : Bool) (s : State) : (latch d last s).clk = s.clk := rfl
@[simp] theorem latch_walker (d : Desc) (last : Bool) (s : State) : (latch d last s).walker = s.walker := rfl
@[simp] theorem latch_pending (d : Desc) (last : Bool) (s : State) : (latch d last s).pending = s.pending := rfl
@[simp] theorem latch_plat (d : Desc) (last : Bool) (s : State) : (latch d last s).plat = s.plat := rfl
@[simp] theorem latch_ram (d : Desc) (last : Bool) (s : State) : (latch d last s).ram = s.ram := rfl
@[simp] theorem latch_devLog (d : Desc) (last : Bool) (s : State) : (latch d last s).devLog = s.devLog := rfl
@[simp] theorem latch_trace (d : Desc) (last : Bool) (s : State) : (latch d last s).trace = s.trace := rfl
@[simp] theorem latch_inputs (d : Desc) (last : Bool) (s : State) : (latch d last s).inputs = s.inputs := rfl
@[simp] theorem latch_replies (d : Desc) (last : Bool) (s : State) : (latch d last s).replies = s.replies := rfl
@[simp] theorem latch_draws (d : Desc) (last : Bool) (s : State) : (latch d last s).draws = s.draws := rfl
@[simp] theorem latch_pace (d : Desc) (last : Bool) (s : State) : (latch d last s).pace = s.pace := rfl
@[simp] theorem fetchByte_descAddr (k : Fin 10) (s : State) : (fetchByte k s).descAddr = s.descAddr := by simp [fetchByte]
@[simp] theorem fetchByte_clk (k : Fin 10) (s : State) : (fetchByte k s).clk = s.clk := by simp [fetchByte]
@[simp] theorem fetchByte_walker (k : Fin 10) (s : State) : (fetchByte k s).walker = s.walker := by simp [fetchByte]
@[simp] theorem fetchByte_pending (k : Fin 10) (s : State) : (fetchByte k s).pending = s.pending := by simp [fetchByte]
@[simp] theorem fetchByte_plat (k : Fin 10) (s : State) : (fetchByte k s).plat = s.plat := by simp [fetchByte]
@[simp] theorem fetchByte_inputs (k : Fin 10) (s : State) : (fetchByte k s).inputs = s.inputs := by simp [fetchByte]
@[simp] theorem fetchByte_replies (k : Fin 10) (s : State) : (fetchByte k s).replies = s.replies := by simp [fetchByte]
@[simp] theorem fetchByte_draws (k : Fin 10) (s : State) : (fetchByte k s).draws = s.draws := by simp [fetchByte]
@[simp] theorem fetchByte_pace (k : Fin 10) (s : State) : (fetchByte k s).pace = s.pace := by simp [fetchByte]
@[simp] theorem fetchByte_ram (k : Fin 10) (s : State) : (fetchByte k s).ram = s.ram := by simp [fetchByte]
@[simp] theorem fetchBytes_descAddr (n : Nat) (s : State) : (fetchBytes n s).descAddr = s.descAddr := by
  induction n with
  | zero => rfl
  | succ n ih => simp [fetchBytes, ih]
@[simp] theorem fetchRecord_descAddr (s : State) : (fetchRecord s).descAddr = s.descAddr := by simp [fetchRecord]
@[simp] theorem fetchBytes_clk (n : Nat) (s : State) : (fetchBytes n s).clk = s.clk := by
  induction n with
  | zero => rfl
  | succ n ih => simp [fetchBytes, ih]
@[simp] theorem fetchRecord_clk (s : State) : (fetchRecord s).clk = s.clk := by simp [fetchRecord]
@[simp] theorem fetchBytes_walker (n : Nat) (s : State) : (fetchBytes n s).walker = s.walker := by
  induction n with
  | zero => rfl
  | succ n ih => simp [fetchBytes, ih]
@[simp] theorem fetchRecord_walker (s : State) : (fetchRecord s).walker = s.walker := by simp [fetchRecord]
@[simp] theorem fetchBytes_pending (n : Nat) (s : State) : (fetchBytes n s).pending = s.pending := by
  induction n with
  | zero => rfl
  | succ n ih => simp [fetchBytes, ih]
@[simp] theorem fetchRecord_pending (s : State) : (fetchRecord s).pending = s.pending := by simp [fetchRecord]
@[simp] theorem fetchBytes_plat (n : Nat) (s : State) : (fetchBytes n s).plat = s.plat := by
  induction n with
  | zero => rfl
  | succ n ih => simp [fetchBytes, ih]
@[simp] theorem fetchRecord_plat (s : State) : (fetchRecord s).plat = s.plat := by simp [fetchRecord]
@[simp] theorem fetchBytes_inputs (n : Nat) (s : State) : (fetchBytes n s).inputs = s.inputs := by
  induction n with
  | zero => rfl
  | succ n ih => simp [fetchBytes, ih]
@[simp] theorem fetchRecord_inputs (s : State) : (fetchRecord s).inputs = s.inputs := by simp [fetchRecord]
@[simp] theorem fetchBytes_replies (n : Nat) (s : State) : (fetchBytes n s).replies = s.replies := by
  induction n with
  | zero => rfl
  | succ n ih => simp [fetchBytes, ih]
@[simp] theorem fetchRecord_replies (s : State) : (fetchRecord s).replies = s.replies := by simp [fetchRecord]
@[simp] theorem fetchBytes_draws (n : Nat) (s : State) : (fetchBytes n s).draws = s.draws := by
  induction n with
  | zero => rfl
  | succ n ih => simp [fetchBytes, ih]
@[simp] theorem fetchRecord_draws (s : State) : (fetchRecord s).draws = s.draws := by simp [fetchRecord]
@[simp] theorem fetchBytes_pace (n : Nat) (s : State) : (fetchBytes n s).pace = s.pace := by
  induction n with
  | zero => rfl
  | succ n ih => simp [fetchBytes, ih]
@[simp] theorem fetchRecord_pace (s : State) : (fetchRecord s).pace = s.pace := by simp [fetchRecord]
@[simp] theorem fetchBytes_ram (n : Nat) (s : State) : (fetchBytes n s).ram = s.ram := by
  induction n with
  | zero => rfl
  | succ n ih => simp [fetchBytes, ih]
@[simp] theorem fetchRecord_ram (s : State) : (fetchRecord s).ram = s.ram := by simp [fetchRecord]
@[simp] theorem copyRead_descAddr (s : State) : (copyRead s).descAddr = s.descAddr := by simp [copyRead]
@[simp] theorem copyRead_clk (s : State) : (copyRead s).clk = s.clk := by simp [copyRead]
@[simp] theorem copyRead_walker (s : State) : (copyRead s).walker = s.walker := by simp [copyRead]
@[simp] theorem copyRead_pending (s : State) : (copyRead s).pending = s.pending := by simp [copyRead]
@[simp] theorem copyRead_plat (s : State) : (copyRead s).plat = s.plat := by simp [copyRead]
@[simp] theorem copyRead_inputs (s : State) : (copyRead s).inputs = s.inputs := by simp [copyRead]
@[simp] theorem copyRead_replies (s : State) : (copyRead s).replies = s.replies := by simp [copyRead]
@[simp] theorem copyRead_draws (s : State) : (copyRead s).draws = s.draws := by simp [copyRead]
@[simp] theorem copyRead_pace (s : State) : (copyRead s).pace = s.pace := by simp [copyRead]
@[simp] theorem copyRead_ram (s : State) : (copyRead s).ram = s.ram := by simp [copyRead]
@[simp] theorem copyWrite_descAddr (s : State) : (copyWrite s).descAddr = s.descAddr := by simp [copyWrite]
@[simp] theorem copyWrite_clk (s : State) : (copyWrite s).clk = s.clk := by simp [copyWrite]
@[simp] theorem copyWrite_walker (s : State) : (copyWrite s).walker = s.walker := by simp [copyWrite]
@[simp] theorem copyWrite_pending (s : State) : (copyWrite s).pending = s.pending := by simp [copyWrite]
@[simp] theorem copyWrite_plat (s : State) : (copyWrite s).plat = s.plat := by simp [copyWrite]
@[simp] theorem copyWrite_inputs (s : State) : (copyWrite s).inputs = s.inputs := by simp [copyWrite]
@[simp] theorem copyWrite_replies (s : State) : (copyWrite s).replies = s.replies := by simp [copyWrite]
@[simp] theorem copyWrite_draws (s : State) : (copyWrite s).draws = s.draws := by simp [copyWrite]
@[simp] theorem copyWrite_pace (s : State) : (copyWrite s).pace = s.pace := by simp [copyWrite]
@[simp] theorem copyByte_descAddr (s : State) : (copyByte s).descAddr = s.descAddr := by simp [copyByte]
@[simp] theorem copyByte_clk (s : State) : (copyByte s).clk = s.clk := by simp [copyByte]
@[simp] theorem copyByte_walker (s : State) : (copyByte s).walker = s.walker := by simp [copyByte]
@[simp] theorem copyByte_pending (s : State) : (copyByte s).pending = s.pending := by simp [copyByte]
@[simp] theorem copyByte_plat (s : State) : (copyByte s).plat = s.plat := by simp [copyByte]
@[simp] theorem copyByte_inputs (s : State) : (copyByte s).inputs = s.inputs := by simp [copyByte]
@[simp] theorem copyByte_replies (s : State) : (copyByte s).replies = s.replies := by simp [copyByte]
@[simp] theorem copyByte_draws (s : State) : (copyByte s).draws = s.draws := by simp [copyByte]
@[simp] theorem copyByte_pace (s : State) : (copyByte s).pace = s.pace := by simp [copyByte]
@[simp] theorem copyBytes_descAddr (n : Nat) (s : State) : (copyBytes n s).descAddr = s.descAddr := by
  induction n generalizing s with
  | zero => rfl
  | succ n ih => simp [copyBytes, ih]
@[simp] theorem copyBytes_clk (n : Nat) (s : State) : (copyBytes n s).clk = s.clk := by
  induction n generalizing s with
  | zero => rfl
  | succ n ih => simp [copyBytes, ih]
@[simp] theorem copyBytes_walker (n : Nat) (s : State) : (copyBytes n s).walker = s.walker := by
  induction n generalizing s with
  | zero => rfl
  | succ n ih => simp [copyBytes, ih]
@[simp] theorem copyBytes_pending (n : Nat) (s : State) : (copyBytes n s).pending = s.pending := by
  induction n generalizing s with
  | zero => rfl
  | succ n ih => simp [copyBytes, ih]
@[simp] theorem copyBytes_plat (n : Nat) (s : State) : (copyBytes n s).plat = s.plat := by
  induction n generalizing s with
  | zero => rfl
  | succ n ih => simp [copyBytes, ih]
@[simp] theorem copyBytes_inputs (n : Nat) (s : State) : (copyBytes n s).inputs = s.inputs := by
  induction n generalizing s with
  | zero => rfl
  | succ n ih => simp [copyBytes, ih]
@[simp] theorem copyBytes_replies (n : Nat) (s : State) : (copyBytes n s).replies = s.replies := by
  induction n generalizing s with
  | zero => rfl
  | succ n ih => simp [copyBytes, ih]
@[simp] theorem copyBytes_draws (n : Nat) (s : State) : (copyBytes n s).draws = s.draws := by
  induction n generalizing s with
  | zero => rfl
  | succ n ih => simp [copyBytes, ih]
@[simp] theorem copyBytes_pace (n : Nat) (s : State) : (copyBytes n s).pace = s.pace := by
  induction n generalizing s with
  | zero => rfl
  | succ n ih => simp [copyBytes, ih]

/-- The working registers after COPY_RD (R86): `data` is the byte read. -/
theorem copyRead_work (s : State) : (copyRead s).work = { s.work with data := busValue s.work.rdPtr s } := by simp [copyRead]

/-- The working registers after COPY_WR (R87): the counters step and `count` falls by 1. -/
theorem copyWrite_work (s : State) : (copyWrite s).work =
    { s.work with rdPtr := stepAddr s.work.rs s.work.rdPtr, wrPtr := stepAddr s.work.ws s.work.wrPtr, count := s.work.count - 1#24 } := by
  simp [copyWrite]

theorem copyByte_work (s : State) : (copyByte s).work =
    { s.work with rdPtr := stepAddr s.work.rs s.work.rdPtr, wrPtr := stepAddr s.work.ws s.work.wrPtr, count := s.work.count - 1#24
                  data := busValue s.work.rdPtr s } := by
  simp [copyByte, copyWrite_work, copyRead_work]

/-- What one byte's copy records (R82): a read, then a write of the byte read. -/
theorem copyByte_trace (s : State) : (copyByte s).trace =
    .write s.work.wrPtr (busValue s.work.rdPtr s) :: .read s.work.rdPtr (busValue s.work.rdPtr s) :: s.trace := by
  simp [copyByte, copyWrite, copyRead]

/-- No byte of a copy changes the latched step modes or `last` (R85). -/
theorem copyBytes_latched (n : Nat) (s : State) :
    (copyBytes n s).work.rs = s.work.rs ∧ (copyBytes n s).work.ws = s.work.ws ∧ (copyBytes n s).work.last = s.work.last ∧
    (copyBytes n s).work.descBuf = s.work.descBuf := by
  induction n generalizing s with
  | zero => simp [copyBytes]
  | succ n ih => obtain ⟨h1, h2, h3, h4⟩ := ih (copyByte s); simp [copyBytes, h1, h2, h3, h4, copyByte_work]

/-! ## Starting, going on, and completing -/

@[simp] theorem startTransfer_descAddr (s : State) : (startTransfer s).descAddr = s.descAddr := rfl
@[simp] theorem startTransfer_clk (s : State) : (startTransfer s).clk = s.clk := rfl
@[simp] theorem startTransfer_walker (s : State) : (startTransfer s).walker = .fetch 0 := rfl
@[simp] theorem startTransfer_pending (s : State) : (startTransfer s).pending = true := rfl
@[simp] theorem startTransfer_work (s : State) : (startTransfer s).work = { s.work with k := 0#4 } := rfl
@[simp] theorem startTransfer_plat (s : State) : (startTransfer s).plat = s.plat := rfl
@[simp] theorem startTransfer_ram (s : State) : (startTransfer s).ram = s.ram := rfl
@[simp] theorem startTransfer_devLog (s : State) : (startTransfer s).devLog = s.devLog := rfl
@[simp] theorem startTransfer_trace (s : State) : (startTransfer s).trace = s.trace := rfl
@[simp] theorem startTransfer_inputs (s : State) : (startTransfer s).inputs = s.inputs := rfl
@[simp] theorem startTransfer_replies (s : State) : (startTransfer s).replies = s.replies := rfl
@[simp] theorem startTransfer_draws (s : State) : (startTransfer s).draws = s.draws := rfl
@[simp] theorem startTransfer_pace (s : State) : (startTransfer s).pace = s.pace := rfl

@[simp] theorem nextRecord_descAddr (s : State) : (nextRecord s).descAddr = s.descAddr := rfl
@[simp] theorem nextRecord_clk (s : State) : (nextRecord s).clk = s.clk := rfl
@[simp] theorem nextRecord_walker (s : State) : (nextRecord s).walker = .fetch 0 := rfl
@[simp] theorem nextRecord_pending (s : State) : (nextRecord s).pending = s.pending := rfl
@[simp] theorem nextRecord_work (s : State) : (nextRecord s).work = { s.work with k := 0#4 } := rfl
@[simp] theorem nextRecord_plat (s : State) : (nextRecord s).plat = s.plat := rfl
@[simp] theorem nextRecord_ram (s : State) : (nextRecord s).ram = s.ram := rfl
@[simp] theorem nextRecord_devLog (s : State) : (nextRecord s).devLog = s.devLog := rfl
@[simp] theorem nextRecord_trace (s : State) : (nextRecord s).trace = s.trace := rfl
@[simp] theorem nextRecord_inputs (s : State) : (nextRecord s).inputs = s.inputs := rfl
@[simp] theorem nextRecord_replies (s : State) : (nextRecord s).replies = s.replies := rfl
@[simp] theorem nextRecord_draws (s : State) : (nextRecord s).draws = s.draws := rfl
@[simp] theorem nextRecord_pace (s : State) : (nextRecord s).pace = s.pace := rfl

@[simp] theorem complete_descAddr (s : State) : (complete s).descAddr = s.descAddr := rfl
@[simp] theorem complete_clk (s : State) : (complete s).clk = s.clk := rfl
@[simp] theorem complete_walker (s : State) : (complete s).walker = .idle := rfl
@[simp] theorem complete_pending (s : State) : (complete s).pending = false := rfl
@[simp] theorem complete_work (s : State) : (complete s).work = Work.free s.draws := rfl
@[simp] theorem complete_plat (s : State) : (complete s).plat = s.plat := rfl
@[simp] theorem complete_ram (s : State) : (complete s).ram = s.ram := rfl
@[simp] theorem complete_devLog (s : State) : (complete s).devLog = s.devLog := rfl
@[simp] theorem complete_trace (s : State) : (complete s).trace = s.trace := rfl
@[simp] theorem complete_inputs (s : State) : (complete s).inputs = s.inputs := rfl
@[simp] theorem complete_replies (s : State) : (complete s).replies = .done :: s.replies := rfl
@[simp] theorem complete_draws (s : State) : (complete s).draws = s.draws + 1 := rfl
@[simp] theorem complete_pace (s : State) : (complete s).pace = s.pace := rfl

@[simp] theorem bumpDescAddr_descAddr (s : State) : (bumpDescAddr s).descAddr = s.descAddr + 10#24 := rfl
@[simp] theorem bumpDescAddr_clk (s : State) : (bumpDescAddr s).clk = s.clk := rfl
@[simp] theorem bumpDescAddr_walker (s : State) : (bumpDescAddr s).walker = s.walker := rfl
@[simp] theorem bumpDescAddr_pending (s : State) : (bumpDescAddr s).pending = s.pending := rfl
@[simp] theorem bumpDescAddr_work (s : State) : (bumpDescAddr s).work = s.work := rfl
@[simp] theorem bumpDescAddr_plat (s : State) : (bumpDescAddr s).plat = s.plat := rfl
@[simp] theorem bumpDescAddr_ram (s : State) : (bumpDescAddr s).ram = s.ram := rfl
@[simp] theorem bumpDescAddr_devLog (s : State) : (bumpDescAddr s).devLog = s.devLog := rfl
@[simp] theorem bumpDescAddr_trace (s : State) : (bumpDescAddr s).trace = s.trace := rfl
@[simp] theorem bumpDescAddr_inputs (s : State) : (bumpDescAddr s).inputs = s.inputs := rfl
@[simp] theorem bumpDescAddr_replies (s : State) : (bumpDescAddr s).replies = s.replies := rfl
@[simp] theorem bumpDescAddr_draws (s : State) : (bumpDescAddr s).draws = s.draws := rfl
@[simp] theorem bumpDescAddr_pace (s : State) : (bumpDescAddr s).pace = s.pace := rfl

@[simp] theorem initEvent_descAddr (s : State) : (initEvent s).descAddr = 0#24 := rfl
@[simp] theorem initEvent_clk (s : State) : (initEvent s).clk = 0x11#8 := rfl
@[simp] theorem initEvent_walker (s : State) : (initEvent s).walker = .idle := rfl
@[simp] theorem initEvent_pending (s : State) : (initEvent s).pending = false := rfl
@[simp] theorem initEvent_work (s : State) : (initEvent s).work = Work.free s.draws := rfl
@[simp] theorem initEvent_plat (s : State) : (initEvent s).plat = s.plat := rfl
@[simp] theorem initEvent_ram (s : State) : (initEvent s).ram = s.ram := rfl
@[simp] theorem initEvent_devLog (s : State) : (initEvent s).devLog = s.devLog := rfl
@[simp] theorem initEvent_trace (s : State) : (initEvent s).trace = s.trace := rfl
@[simp] theorem initEvent_inputs (s : State) : (initEvent s).inputs = s.inputs := rfl
@[simp] theorem initEvent_replies (s : State) : (initEvent s).replies = s.replies := rfl
@[simp] theorem initEvent_draws (s : State) : (initEvent s).draws = s.draws + 1 := rfl
@[simp] theorem initEvent_pace (s : State) : (initEvent s).pace = s.pace := rfl

@[simp] theorem resetEvent_descAddr (s : State) : (resetEvent s).descAddr = s.descAddr := rfl
@[simp] theorem resetEvent_clk (s : State) : (resetEvent s).clk = 0x56#8 := rfl
@[simp] theorem resetEvent_walker (s : State) : (resetEvent s).walker = .idle := rfl
@[simp] theorem resetEvent_pending (s : State) : (resetEvent s).pending = false := rfl
@[simp] theorem resetEvent_work (s : State) : (resetEvent s).work = Work.free s.draws := rfl
@[simp] theorem resetEvent_plat (s : State) : (resetEvent s).plat = s.plat := rfl
@[simp] theorem resetEvent_ram (s : State) : (resetEvent s).ram = s.ram := rfl
@[simp] theorem resetEvent_devLog (s : State) : (resetEvent s).devLog = s.devLog := rfl
@[simp] theorem resetEvent_trace (s : State) : (resetEvent s).trace = s.trace := rfl
@[simp] theorem resetEvent_inputs (s : State) : (resetEvent s).inputs = s.inputs := rfl
@[simp] theorem resetEvent_replies (s : State) : (resetEvent s).replies = s.replies := rfl
@[simp] theorem resetEvent_draws (s : State) : (resetEvent s).draws = s.draws + 1 := rfl
@[simp] theorem resetEvent_pace (s : State) : (resetEvent s).pace = s.pace := rfl

@[simp] theorem runRecord_descAddr (d : Desc) (last : Bool) (s : State) : (runRecord d last s).descAddr = s.descAddr + 10#24 := by simp [runRecord]
@[simp] theorem runRecord_clk (d : Desc) (last : Bool) (s : State) : (runRecord d last s).clk = s.clk := by simp [runRecord]
@[simp] theorem runRecord_walker (d : Desc) (last : Bool) (s : State) : (runRecord d last s).walker = s.walker := by simp [runRecord]
@[simp] theorem runRecord_pending (d : Desc) (last : Bool) (s : State) : (runRecord d last s).pending = s.pending := by simp [runRecord]
@[simp] theorem runRecord_plat (d : Desc) (last : Bool) (s : State) : (runRecord d last s).plat = s.plat := by simp [runRecord]
@[simp] theorem runRecord_inputs (d : Desc) (last : Bool) (s : State) : (runRecord d last s).inputs = s.inputs := by simp [runRecord]
@[simp] theorem runRecord_replies (d : Desc) (last : Bool) (s : State) : (runRecord d last s).replies = s.replies := by simp [runRecord]
@[simp] theorem runRecord_draws (d : Desc) (last : Bool) (s : State) : (runRecord d last s).draws = s.draws := by simp [runRecord]
@[simp] theorem runRecord_pace (d : Desc) (last : Bool) (s : State) : (runRecord d last s).pace = s.pace := by simp [runRecord]

end Sys2Proof.Machine
end

