-- ==== Sys2Proof/Laws/Copy.lean ====
section
/-! SUPPORT. The byte-serial copy as one loop on the environment: the working registers carry the loop's own variables and reach
nothing else. -/

namespace Sys2Proof.Machine

@[simp] theorem stepMany_zero (m : StepMode) (a : Addr) : stepMany m 0 a = a := rfl

theorem stepMany_succ (m : StepMode) (n : Nat) (a : Addr) : stepMany m (n + 1) a = stepAddr m (stepMany m n a) := by
  induction n generalizing a with
  | zero => rfl
  | succ n ih => rw [stepMany, ih]; rfl

/-! ## The environment does not see the working registers -/

theorem State.setWork_setWork (s : State) (w v : Work) : (s.setWork w).setWork v = s.setWork v := rfl

theorem busValue_setWork (a : Addr) (s : State) (w : Work) : busValue a (s.setWork w) = busValue a s := rfl

theorem masterRead_setWork (a : Addr) (s : State) (w : Work) : masterRead a (s.setWork w) = (masterRead a s).setWork w := by
  simp only [masterRead, afterRead, busValue]; split <;> simp_all [State.log, State.logDevice, State.devicePast, State.setWork]

theorem masterWrite_setWork (a : Addr) (v : Byte) (s : State) (w : Work) :
    masterWrite a v (s.setWork w) = (masterWrite a v s).setWork w := by
  simp only [masterWrite, busWrite]; split <;> simp_all [State.log, State.setRam, State.logDevice, State.setWork]

/-- The copy loop leaves working registers it does not use as they are. -/
theorem copyLoop_setWork (rs ws : StepMode) (n : Nat) (rd wr : Addr) (s : State) (w : Work) :
    copyLoop rs ws n rd wr (s.setWork w) = (copyLoop rs ws n rd wr s).setWork w := by
  induction n generalizing rd wr s with
  | zero => rfl
  | succ n ih => simp only [copyLoop, masterRead_setWork, busValue_setWork, masterWrite_setWork, ih]

/-! ## The copy is the loop -/

/-- One byte's copy is one turn of the loop and the register updates of R86 and R87. -/
theorem copyByte_eq (s : State) : copyByte s =
    (masterWrite s.work.wrPtr (busValue s.work.rdPtr s) (masterRead s.work.rdPtr s)).setWork (copyByte s).work := by
  simp only [copyByte, copyWrite, copyRead, masterWrite_setWork, State.setWork_setWork, State.setWork_work, masterRead_work]

/-- `n` bytes copied are `n` turns of the loop from the counters on. -/
theorem copyBytes_eq_copyLoop (n : Nat) (s : State) : copyBytes n s =
    (copyLoop s.work.rs s.work.ws n s.work.rdPtr s.work.wrPtr s).setWork (copyBytes n s).work := by
  induction n generalizing s with
  | zero => rfl
  | succ n ih =>
    have hk := ih (copyByte s)
    have hw := copyByte_work s
    have he := copyByte_eq s
    rw [copyBytes, hk]
    generalize (copyBytes n (copyByte s)).work = w1
    rw [show (copyByte s).work.rs = s.work.rs by rw [hw], show (copyByte s).work.ws = s.work.ws by rw [hw],
      show (copyByte s).work.rdPtr = stepAddr s.work.rs s.work.rdPtr by rw [hw],
      show (copyByte s).work.wrPtr = stepAddr s.work.ws s.work.wrPtr by rw [hw]]
    clear hk hw
    generalize (copyByte s).work = w2 at he
    rw [he, copyLoop_setWork]; rfl

/-- The counters and `count` after `n` bytes (R87, R93). -/
theorem copyBytes_counters (n : Nat) (s : State) :
    (copyBytes n s).work.rdPtr = stepMany s.work.rs n s.work.rdPtr ∧ (copyBytes n s).work.wrPtr = stepMany s.work.ws n s.work.wrPtr ∧
    (copyBytes n s).work.count = s.work.count - BitVec.ofNat 24 n := by
  induction n generalizing s with
  | zero => simp [copyBytes, stepMany]
  | succ n ih =>
    obtain ⟨h1, h2, h3⟩ := ih (copyByte s)
    simp only [copyBytes, h1, h2, h3, copyByte_work, stepMany, true_and]
    bv_omega

/-- What the loop leaves alone: every register, the assembly, the inputs, the replies, the draws and the pace. -/
theorem copyLoop_frame (rs ws : StepMode) (n : Nat) (rd wr : Addr) (s : State) :
    (copyLoop rs ws n rd wr s).descAddr = s.descAddr ∧ (copyLoop rs ws n rd wr s).clk = s.clk ∧
    (copyLoop rs ws n rd wr s).walker = s.walker ∧ (copyLoop rs ws n rd wr s).pending = s.pending ∧
    (copyLoop rs ws n rd wr s).work = s.work ∧ (copyLoop rs ws n rd wr s).plat = s.plat ∧
    (copyLoop rs ws n rd wr s).inputs = s.inputs ∧ (copyLoop rs ws n rd wr s).replies = s.replies ∧
    (copyLoop rs ws n rd wr s).draws = s.draws ∧ (copyLoop rs ws n rd wr s).pace = s.pace := by
  induction n generalizing rd wr s with
  | zero => simp [copyLoop]
  | succ n ih => simp [copyLoop, ih]

/-- The whole of a record after its decode is the loop and the advance, whatever the working registers end as (R79, R91). -/
theorem runRecord_eq_copyLoop (d : Desc) (last : Bool) (s : State) : ∃ w, runRecord d last s =
    bumpDescAddr ((copyLoop d.readStep d.writeStep d.length.toNat d.readAddress d.writeAddress s).setWork w) := by
  refine ⟨(runRecord d last s).work, ?_⟩
  rw [runRecord, copyBytes_eq_copyLoop]
  simp only [latch, copyLoop_setWork, State.setWork_work]; rfl

/-! ## The copy does not see the walker -/

theorem copyRead_setWalker (s : State) (w : Walker) : copyRead (s.setWalker w) = (copyRead s).setWalker w := by
  simp only [copyRead, masterRead, afterRead, busValue]
  cases h : s.plat.slot s.work.rdPtr <;> simp [State.setWalker, State.setWork, h, State.log, State.logDevice, State.devicePast]

theorem copyWrite_setWalker (s : State) (w : Walker) : copyWrite (s.setWalker w) = (copyWrite s).setWalker w := by
  simp only [copyWrite, masterWrite, busWrite]
  cases h : s.plat.slot s.work.wrPtr <;> simp [State.setWalker, State.setWork, h, State.log, State.setRam, State.logDevice]

theorem fetchByte_setWalker (k : Fin 10) (s : State) (w : Walker) : fetchByte k (s.setWalker w) = (fetchByte k s).setWalker w := by
  simp only [fetchByte, masterRead, afterRead]
  split <;> rename_i h <;> simp at h <;> simp [h] <;> rfl

/-! ## Physical addresses -/

theorem physOf_add_toNat (a : Addr) (k : Nat) :
    (physOf (a + BitVec.ofNat 24 k)).toNat = (a.toNat + k % 16777216) % 16777216 % 4194304 := by
  have h24 : (2 : Nat) ^ 24 = 16777216 := by norm_num
  have h22 : (2 : Nat) ^ 22 = 4194304 := by norm_num
  rw [physOf_toNat, BitVec.toNat_add, BitVec.toNat_ofNat, h24, h22]

/-- Fewer than 4 MiB apart, two addresses of one range are different physical bytes (R37). -/
theorem physOf_add_ne {a : Addr} {j k : Nat} (h : j < k) (hk : k - j < 4194304) :
    physOf (a + BitVec.ofNat 24 k) ≠ physOf (a + BitVec.ofNat 24 j) := by
  intro he
  have := congrArg BitVec.toNat he
  rw [physOf_add_toNat, physOf_add_toNat] at this
  omega

end Sys2Proof.Machine
end

