-- ==== Sys2Proof/Laws/Decode.lean ====
section
/-! SUPPORT. The small lemmas of the decoder: a PT word split into its selector and its data byte, and the step-mode fields. -/

namespace Sys2Proof

@[simp] theorem StepMode.ofBits_toBits (m : StepMode) : StepMode.ofBits m.toBits = m := by cases m <;> rfl

@[simp] theorem StepMode.toBits_ofBits (m : BitVec 2) : (StepMode.ofBits m).toBits = m := by revert m; decide

/-- The data byte of a PT word (R52). -/
theorem ptData (c : BitVec 4) (v : Byte) : (c ++ v).extractLsb' 0 8 = v := by revert c v; decide

/-- The selector `{W, off}` of a PT word (R52). -/
theorem ptSelector (c : BitVec 4) (v : Byte) : (c ++ v).extractLsb' 8 4 = c := by revert c v; decide

/-- Every PT word is a selector and a data byte (R52). -/
theorem ptSplit (w : BitVec 12) : ∃ (c : BitVec 4) (v : Byte), w = c ++ v := by
  refine ⟨w.extractLsb' 8 4, w.extractLsb' 0 8, ?_⟩
  apply BitVec.eq_of_getLsbD_eq
  intro i hi
  rw [BitVec.getLsbD_append]
  by_cases h : i < 8
  · simp [h]
  · have : 8 + (i - 8) = i := by omega
    simp [h, this, show i - 8 < 4 by omega]

/-- A little-endian field as a number (R30, R55). -/
theorem le24_toNat (a b c : Byte) : (le24 a b c).toNat = a.toNat + 256 * b.toNat + 65536 * c.toNat := by
  simp only [le24, BitVec.toNat_append]
  rw [← Nat.shiftLeft_add_eq_or_of_lt a.isLt, ← Nat.shiftLeft_add_eq_or_of_lt b.isLt]
  simp only [Nat.shiftLeft_eq]; omega

/-- Ten bytes are a record, element by element. -/
theorem record_eta (b : Vector Byte 10) : b = #v[b[0], b[1], b[2], b[3], b[4], b[5], b[6], b[7], b[8], b[9]] := by
  apply Vector.ext; intro i hi; interval_cases i <;> rfl

end Sys2Proof
end

