-- ==== Sys2Proof/Laws/Fetch.lean ====
section
/-! SUPPORT. The fetch of a record, once: ten reads in order into `desc_buf`, and nothing else. -/

namespace Sys2Proof.Machine

/-- One fetch read (R83): its byte into `desc_buf`, the index after it, its operation into the trace, and the access to the
device behind the page, if one is. -/
theorem fetchByte_eq (k : Fin 10) (s : State) : fetchByte k s = { s with
    work := { s.work with
      descBuf := s.work.descBuf.set k (busValue (s.descAddr + BitVec.ofNat 24 k.val) s)
      k := nextIndex k }
    trace := .read (s.descAddr + BitVec.ofNat 24 k.val) (busValue (s.descAddr + BitVec.ofNat 24 k.val) s) :: s.trace
    devLog := (afterRead (s.descAddr + BitVec.ofNat 24 k.val) s).devLog } := by
  rcases afterRead_eq (s.descAddr + BitVec.ofNat 24 k.val) s with ⟨-, h⟩ | ⟨_, -, h⟩ <;>
    simp only [fetchByte, masterRead, h] <;> rfl

/-- The operations of the first `n` fetch reads, the newest first, given the bytes in `desc_buf`. -/
def fetchOpsTo (a : Addr) (b : Vector Byte 10) : Nat → List BusOp
  | 0 => []
  | n + 1 => .read (a + BitVec.ofNat 24 (Fin.ofNat 10 n).val) b[Fin.ofNat 10 n] :: fetchOpsTo a b n

theorem fetchOpsTo_ten (a : Addr) (b : Vector Byte 10) : fetchOpsTo a b 10 = (fetchOps a b).reverse := rfl

/-- Later fetch reads leave the bytes of earlier ones. -/
theorem fetchOpsTo_set (a : Addr) (b : Vector Byte 10) (v : Byte) (m : Fin 10) :
    ∀ n, n ≤ m.val → fetchOpsTo a (b.set m v) n = fetchOpsTo a b n
  | 0, _ => rfl
  | n + 1, h => by
    rw [fetchOpsTo, fetchOpsTo, fetchOpsTo_set a b v m n (by omega)]
    have hn : (Fin.ofNat 10 n).val = n := by simp [Fin.ofNat]; omega
    congr 2
    simp only [Fin.getElem_fin]
    exact Vector.getElem_set_ne _ _ (by omega)

/-- The first `n` fetch reads change `desc_buf`, `k`, the trace and what devices have got only. -/
theorem fetchBytes_eq (s : State) : ∀ n, n ≤ 10 → ∃ b i l, fetchBytes n s = { s with
    work := { s.work with descBuf := b, k := i }, trace := fetchOpsTo s.descAddr b n ++ s.trace, devLog := l }
  | 0, _ => ⟨s.work.descBuf, s.work.k, s.devLog, rfl⟩
  | n + 1, h => by
    obtain ⟨b, i, l, e⟩ := fetchBytes_eq s n (by omega)
    have e' := fetchByte_eq (Fin.ofNat 10 n) (fetchBytes n s)
    have hn : n ≤ (Fin.ofNat 10 n).val := by simp [Fin.ofNat]; omega
    refine ⟨b.set (Fin.ofNat 10 n) (busValue (s.descAddr + BitVec.ofNat 24 (Fin.ofNat 10 n).val) (fetchBytes n s)),
      nextIndex (Fin.ofNat 10 n), (afterRead ((fetchBytes n s).descAddr + BitVec.ofNat 24 (Fin.ofNat 10 n).val) (fetchBytes n s)).devLog, ?_⟩
    rw [fetchBytes, e']
    simp only [fetchBytes_descAddr, fetchOpsTo, fetchOpsTo_set _ _ _ _ _ hn, Fin.getElem_fin, Vector.getElem_set_self]
    generalize busValue (s.descAddr + BitVec.ofNat 24 (Fin.ofNat 10 n).val) (fetchBytes n s) = v
    generalize (afterRead (s.descAddr + BitVec.ofNat 24 (Fin.ofNat 10 n).val) (fetchBytes n s)).devLog = h
    rw [e]; rfl

/-- A whole fetch: `desc_buf` holds the record, `k` stands at 9, the trace holds the ten reads (R82, R83). -/
theorem fetchRecord_eq (s : State) : ∃ l, fetchRecord s = { s with
    work := { s.work with descBuf := s.record, k := 9#4 }
    trace := (fetchOps s.descAddr s.record).reverse ++ s.trace, devLog := l } := by
  obtain ⟨b, i, l, e⟩ := fetchBytes_eq s 10 (Nat.le_refl 10)
  have hb : s.record = b := by simp only [State.record, fetchRecord, Config.descSize, e]
  have hi : (fetchBytes 10 s).work.k = 9#4 := rfl
  rw [e] at hi
  exact ⟨l, by rw [hb, ← hi]; exact e⟩

/-- In RAM pages the bytes fetched are the bytes stored (R38, R44). -/
theorem fetchBytes_getElem_of_ram (s : State) (h : ∀ k : Fin 10, s.isRam (s.descAddr + BitVec.ofNat 24 k.val) = true) :
    ∀ n, n ≤ 10 → ∀ k : Fin 10, k.val < n → (fetchBytes n s).work.descBuf[k] = s.peek (s.descAddr + BitVec.ofNat 24 k.val)
  | 0, _, _, hk => absurd hk (Nat.not_lt_zero _)
  | n + 1, hn, k, hk => by
    have hv : (Fin.ofNat 10 n).val = n := by simp [Fin.ofNat]; omega
    have ih := fetchBytes_getElem_of_ram s h n (by omega) k
    have e := fetchByte_eq (Fin.ofNat 10 n) (fetchBytes n s)
    have hr : (fetchBytes n s).plat.slot ((fetchBytes n s).descAddr + BitVec.ofNat 24 (Fin.ofNat 10 n).val) = .ram := by
      simpa [State.isRam] using h (Fin.ofNat 10 n)
    rw [fetchBytes, e]
    simp only [Fin.getElem_fin]
    by_cases hkn : k.val = n
    · have : k = Fin.ofNat 10 n := Fin.ext (by rw [hv, hkn])
      subst this
      rw [Vector.getElem_set_self, busValue_of_ram hr]
      simp [State.peek]
    · rw [Vector.getElem_set_ne _ _ (by omega)]
      exact ih (by omega)

/-- A record in RAM pages is fetched as it stands there (R83). -/
theorem record_eq_of_holds {s : State} {b : Vector Byte 10} (h : s.holdsRecord s.descAddr b) : s.record = b := by
  apply Vector.ext
  intro i hi
  have := fetchBytes_getElem_of_ram s (fun k => (h k).1) 10 (Nat.le_refl 10) ⟨i, hi⟩ hi
  rw [(h ⟨i, hi⟩).2] at this
  exact this

end Sys2Proof.Machine
end

