-- ==== Sys2Proof/Laws/PerInstr.lean ====
section
/-! SUPPORT. Statements made per instruction: every well-formed instruction is encoded inside its own row of spec/opcode_table.json,
in as many bytes as its form takes. -/

namespace Sys2Proof.Laws.TableRow

/-- The encoding has the row's form and size, and its bits under the row's mask are the row's pattern (R51, R61). -/
def Statement (i : Instr) : Prop :=
  i.wellFormed = true → (opRow i).form = i.form ∧ (encode i).length = i.form.size ∧
    wordOf (encode i) &&& (opRow i).mask = (opRow i).pattern

/-- Bit 76 of a record is bit 4 of its `flags` byte, which is `is_last` (R55, R56). -/
theorem record_bit_76 (d : Desc) (last : Bool) :
    wordOf (descBytes d last).toList &&& 0x10000000000000000000 = if last then 0x10000000000000000000 else 0 := by
  have h4 : (flagsByte d last).toNat.testBit 4 = last := by
    rw [BitVec.testBit_toNat]
    unfold flagsByte
    generalize d.reserved = r, d.writeStep.toBits = w, d.readStep.toBits = m
    revert r w m last; decide
  generalize hf : (flagsByte d last).toNat = f at h4
  have hw : (wordOf (descBytes d last).toList).testBit 76 = last := by
    have hdiv : wordOf (descBytes d last).toList / 2 ^ 72 = f := by
      simp only [descBytes, wordOf, Vector.toList, hf]
      have := fun a i => (byteOf i a).isLt
      have h0 := this d.readAddress 0; have h1 := this d.readAddress 1; have h2 := this d.readAddress 2
      have h3 := this d.writeAddress 0; have h4 := this d.writeAddress 1; have h5 := this d.writeAddress 2
      have h6 := this d.length 0; have h7 := this d.length 1; have h8 := this d.length 2
      omega
    rw [← hdiv, Nat.testBit_div_two_pow] at h4
    exact h4
  rw [show (0x10000000000000000000 : Nat) = 2 ^ 76 from rfl, Nat.and_two_pow, hw]
  cases last <;> rfl

theorem rdDesc0 : Statement .rdDesc0 := fun _ => by decide
theorem rdDesc1 : Statement .rdDesc1 := fun _ => by decide
theorem rdDesc2 : Statement .rdDesc2 := fun _ => by decide
theorem rdClk : Statement .rdClk := fun _ => by decide
theorem rdCtrl : Statement .rdCtrl := fun _ => by decide
theorem rdNone5 : Statement .rdNone5 := fun _ => by decide
theorem rdNone6 : Statement .rdNone6 := fun _ => by decide
theorem rdNone7 : Statement .rdNone7 := fun _ => by decide
theorem wrDesc0 (v : Byte) : Statement (.wrDesc0 v) := fun _ => by revert v; decide
theorem wrDesc1 (v : Byte) : Statement (.wrDesc1 v) := fun _ => by revert v; decide
theorem wrDesc2 (v : Byte) : Statement (.wrDesc2 v) := fun _ => by revert v; decide
theorem wrClk (v : Byte) : Statement (.wrClk v) := fun _ => by revert v; decide
theorem wrCtrlStart (v : Byte) : Statement (.wrCtrlStart v) := by unfold Statement; revert v; decide
theorem wrCtrlNop (v : Byte) : Statement (.wrCtrlNop v) := by unfold Statement; revert v; decide
theorem wrNone5 (v : Byte) : Statement (.wrNone5 v) := fun _ => by revert v; decide
theorem wrNone6 (v : Byte) : Statement (.wrNone6 v) := fun _ => by revert v; decide
theorem wrNone7 (v : Byte) : Statement (.wrNone7 v) := fun _ => by revert v; decide
theorem xfer (d : Desc) : Statement (.xfer d) := fun _ => ⟨rfl, rfl, record_bit_76 d false⟩
theorem xferLast (d : Desc) : Statement (.xferLast d) := fun _ => ⟨rfl, rfl, record_bit_76 d true⟩

end Sys2Proof.Laws.TableRow
end

