-- ==== Sys2Proof/Laws/Step.lean ====
section
/-! SUPPORT. What a step can do, once: it never stops, and it is one of an event, a wait, a step of the engine or a whole record.
Later proofs cite these instead of unfolding `step`. -/

namespace Sys2Proof.Machine

/-! ## exec -/

/-- While BUSY no port transaction completes: it changes nothing (R27). -/
theorem exec_port_of_busy {i : Instr} {s : State} (hi : i.form = .pt) (hs : s.busy) : exec i s = .next s := by
  cases i with
  | xfer d => cases hi
  | xferLast d => cases hi
  | wrCtrlStart v => simp only [exec, execWrCtrlStart]; split <;> simp_all [State.busy]
  | _ => first | exact portRead_of_busy _ hs | exact portWrite_of_busy _ hs

theorem exec_xfer_of_busy (d : Desc) {s : State} (hs : s.busy) :
    exec (.xfer d) s = .next (nextRecord (runRecord d false s)) := by
  simp [exec, execXfer, hs]

theorem exec_xferLast_of_busy (d : Desc) {s : State} (hs : s.busy) :
    exec (.xferLast d) s = .next (complete (runRecord d true s)) := by
  simp [exec, execXferLast, hs]

/-- What a port transaction does to an IDLE engine: it answers the requester, after at most one register write, or it starts a transfer. -/
theorem exec_port_of_idle {i : Instr} {s : State} (hi : i.form = .pt) (hs : s.walker = .idle) :
    (∃ r, exec i s = .next (s.reply r)) ∨ (∃ a, exec i s = .next ((s.setDescAddr a).reply .done)) ∨
    (∃ v, exec i s = .next ((s.setClk v).reply .done)) ∨ (∃ v, i = .wrCtrlStart v ∧ exec i s = .next (startTransfer s)) := by
  cases i with
  | rdDesc0 => exact .inl ⟨_, portRead_of_idle _ hs⟩
  | rdDesc1 => exact .inl ⟨_, portRead_of_idle _ hs⟩
  | rdDesc2 => exact .inl ⟨_, portRead_of_idle _ hs⟩
  | rdClk => exact .inl ⟨_, portRead_of_idle _ hs⟩
  | rdCtrl => exact .inl ⟨_, portRead_of_idle _ hs⟩
  | rdNone5 => exact .inl ⟨_, portRead_of_idle _ hs⟩
  | rdNone6 => exact .inl ⟨_, portRead_of_idle _ hs⟩
  | rdNone7 => exact .inl ⟨_, portRead_of_idle _ hs⟩
  | wrDesc0 v => exact .inr (.inl ⟨_, portWrite_of_idle _ hs⟩)
  | wrDesc1 v => exact .inr (.inl ⟨_, portWrite_of_idle _ hs⟩)
  | wrDesc2 v => exact .inr (.inl ⟨_, portWrite_of_idle _ hs⟩)
  | wrClk v => exact .inr (.inr (.inl ⟨v, portWrite_of_idle _ hs⟩))
  | wrCtrlStart v => exact .inr (.inr (.inr ⟨v, rfl, by simp [exec, execWrCtrlStart, hs]⟩))
  | wrCtrlNop v => exact .inl ⟨_, portWrite_of_idle _ hs⟩
  | wrNone5 v => exact .inl ⟨_, portWrite_of_idle _ hs⟩
  | wrNone6 v => exact .inl ⟨_, portWrite_of_idle _ hs⟩
  | wrNone7 v => exact .inl ⟨_, portWrite_of_idle _ hs⟩
  | xfer d => cases hi
  | xferLast d => cases hi

/-- A PT word stands for a port transaction (R52, R61). -/
theorem decodePT_form (w : BitVec 12) : (decodePT w).form = .pt := by
  unfold decodePT
  split <;> try rfl
  dsimp only
  split <;> rfl

/-- A record stands for XFER or XFER.LAST, by its `is_last` (R61). -/
theorem decodeDesc_cases (b : Vector Byte 10) :
    (recordLast b = true ∧ decodeDesc b = .xferLast (recordDesc b)) ∨ (recordLast b = false ∧ decodeDesc b = .xfer (recordDesc b)) := by
  unfold decodeDesc; cases recordLast b <;> simp

/-! ## step -/

/-- A waiting machine waits (R120). -/
theorem step_of_waiting {s : State} (hs : s.walker = .idle) (hi : s.inputs = []) : step s = .next s := by
  simp [step, machineStep, State.busy, hs, idleStep, hi]

/-- An IDLE machine handles the next event (R108). -/
theorem step_of_event {s : State} {e : Event} {es : List Event} (hs : s.walker = .idle) (hi : s.inputs = e :: es) :
    step s = accept e (s.setInputs es) := by
  simp [step, machineStep, State.busy, hs, idleStep, hi]

/-- A BUSY machine takes one step of the engine (R81). -/
theorem step_of_tick {s : State} (hb : s.busy) (hp : s.pace = .byBusOperation) : step s = .next (tick s) := by
  simp [step, machineStep, hb, busyStep, hp]

/-- At the pace of R79 a walker at FETCH(0) fetches a record and runs the whole instruction. -/
theorem step_of_record {s : State} (hs : s.walker = .fetch 0) (hp : s.pace = .byRecord) :
    step s = exec (decodeDesc s.record) (fetchRecord s) := by
  simp [step, machineStep, State.busy, hs, busyStep, hp, recordPaceStep, recordStep, State.record]

/-- Inside a record either pace takes one step of the engine. -/
theorem step_inside_record {s : State} (hb : s.busy) (hs : s.walker ≠ .fetch 0) : step s = .next (tick s) := by
  cases hp : s.pace with
  | byBusOperation => exact step_of_tick hb hp
  | byRecord =>
    simp only [step, machineStep, hb, if_true, busyStep, hp, recordPaceStep]
    split <;> simp_all [State.busy]

/-- A whole record never stops. -/
theorem exec_record {s : State} (hs : s.walker = .fetch 0) :
    exec (decodeDesc s.record) (fetchRecord s) = .next (afterRecord s) := by
  have hb : (fetchRecord s).busy = true := by simp [State.busy, hs]
  rcases decodeDesc_cases s.record with ⟨-, h⟩ | ⟨-, h⟩ <;>
    simp [afterRecord, hs, h, exec_xferLast_of_busy _ hb, exec_xfer_of_busy _ hb]

/-- What running a fetched record leaves: the next record or completion, as its `is_last` says (R88, R91, R92). -/
theorem afterRecord_cases {s : State} (hs : s.walker = .fetch 0) :
    (recordLast s.record = false ∧ afterRecord s = nextRecord (runRecord (recordDesc s.record) false (fetchRecord s))) ∨
    (recordLast s.record = true ∧ afterRecord s = complete (runRecord (recordDesc s.record) true (fetchRecord s))) := by
  have hb : (fetchRecord s).busy = true := by simp [State.busy, hs]
  rcases decodeDesc_cases s.record with ⟨hl, h⟩ | ⟨hl, h⟩
  · exact .inr ⟨hl, by simp [afterRecord, hs, h, exec_xferLast_of_busy _ hb]⟩
  · exact .inl ⟨hl, by simp [afterRecord, hs, h, exec_xfer_of_busy _ hb]⟩

/-- What an event can do to an IDLE machine: a port transaction, a reply with at most an access delivered to a device or one byte written to
memory, or an init or reset event. -/
theorem accept_cases (e : Event) (s : State) :
    (∃ w, accept e s = exec (decodePT w) s) ∨ (∃ r, accept e s = .next (s.reply r)) ∨
    (∃ dev op r, accept e s = .next ((s.logDevice dev op).reply r)) ∨ (∃ a v r, accept e s = .next ((busWrite a v s).reply r)) ∨
    (e = .init ∧ accept e s = .next (initEvent s)) ∨ (e = .reset ∧ accept e s = .next (resetEvent s)) := by
  cases e with
  | pt w => exact .inl ⟨w, rfl⟩
  | ioRead port =>
    simp only [accept, ioRead]
    split
    · exact .inl ⟨_, rfl⟩
    · exact .inr (.inr (.inl ⟨_, _, _, rfl⟩))
    · exact .inr (.inl ⟨_, rfl⟩)
  | ioWrite port v =>
    simp only [accept, ioWrite]
    split
    · exact .inl ⟨_, rfl⟩
    · exact .inr (.inr (.inl ⟨_, _, _, rfl⟩))
    · exact .inr (.inl ⟨_, rfl⟩)
  | memRead a =>
    simp only [accept, requesterRead]
    rcases afterRead_eq a s with ⟨-, h⟩ | ⟨_, -, h⟩
    · exact .inr (.inl ⟨_, by rw [h]⟩)
    · exact .inr (.inr (.inl ⟨_, _, _, by rw [h]⟩))
  | memWrite a v => exact .inr (.inr (.inr (.inl ⟨a, v, .done, rfl⟩)))
  | init => exact .inr (.inr (.inr (.inr (.inl ⟨rfl, rfl⟩))))
  | reset => exact .inr (.inr (.inr (.inr (.inr ⟨rfl, rfl⟩))))

/-- What a step can be: a wait, an event, one step of the engine, or, at the pace of R79, a whole record. -/
theorem step_cases (s : State) :
    (s.walker = .idle ∧ s.inputs = [] ∧ step s = .next s) ∨
    (∃ e es, s.walker = .idle ∧ s.inputs = e :: es ∧ step s = accept e (s.setInputs es)) ∨
    (s.busy = true ∧ (s.walker = .fetch 0 → s.pace = .byBusOperation) ∧ step s = .next (tick s)) ∨
    (s.walker = .fetch 0 ∧ s.pace = .byRecord ∧ step s = .next (afterRecord s)) := by
  by_cases hi : s.walker = .idle
  · cases hin : s.inputs with
    | nil => exact .inl ⟨hi, rfl, step_of_waiting hi hin⟩
    | cons e es => exact .inr (.inl ⟨e, es, hi, rfl, step_of_event hi hin⟩)
  · have hb := (busy_iff s).mpr hi
    cases hp : s.pace with
    | byBusOperation => exact .inr (.inr (.inl ⟨hb, fun _ => rfl, step_of_tick hb hp⟩))
    | byRecord =>
      by_cases hf : s.walker = .fetch 0
      · exact .inr (.inr (.inr ⟨hf, rfl, by rw [step_of_record hf hp, exec_record hf]⟩))
      · exact .inr (.inr (.inl ⟨hb, fun h => absurd h hf, step_inside_record hb hf⟩))

/-- What one step of the engine can be (R83 to R89). -/
theorem tick_cases (s : State) :
    (s.walker = .idle ∧ tick s = s) ∨ (∃ k, s.walker = .fetch k ∧ tick s = tickFetch k s) ∨
    (s.walker = .copyRd ∧ tick s = (copyRead s).setWalker .copyWr) ∨
    (s.walker = .copyWr ∧ tick s = (copyWrite s).setWalker (if (copyWrite s).work.count ≠ 0#24 then .copyRd else .advance)) ∨
    (s.walker = .advance ∧ s.work.last = false ∧ tick s = nextRecord (bumpDescAddr s)) ∨
    (s.walker = .advance ∧ s.work.last = true ∧ tick s = complete (bumpDescAddr s)) := by
  cases hw : s.walker with
  | idle => simp [tick, hw]
  | fetch k => simp [tick, hw]
  | copyRd => simp [tick, hw, tickCopyRd]
  | copyWr => simp [tick, hw, tickCopyWr]
  | advance =>
    cases hl : s.work.last <;> simp [tick, hw, tickAdvance, hl]

end Sys2Proof.Machine
end

