-- ==== Sys2Proof/Tests/Slice0.lean ====
section
/-! SUPPORT. Tests on small states. Expected results come from the spec: its worked examples P1 to P9, its vectors, its rules' own
examples, or the hand-written encodings of 30_encoding.md. The last part shows, for each statement with hypotheses, a state that meets
them. -/

namespace Sys2Proof.Tests

open Sys2Proof.Machine

/-! ## Helpers -/

/-- The state an outcome goes on with. -/
def after (o : Host.Outcome State Fault Refusal) : State :=
  match o with
  | .next t => t
  | .fault _ => State.reset
  | .refused _ => State.reset

/-- A machine at `DMA_IO_BASE` = 0x40, every page RAM but pages 0xF0 (external device 9) and 0xF1 (unbound), an external device 7 at port
0x45, and the given RAM bytes. -/
def demo (ram : Memory) : State :=
  { State.reset with
    ram := ram
    plat := { ioBase := 0x40, idleMem := 0xEE, idleIo := 0xDD
              memMap := [⟨0, 0xF0, ⟨1, .ram⟩⟩, ⟨0xF0, 1, ⟨9, .external⟩⟩, ⟨0xF2, 14, ⟨1, .ram⟩⟩]
              ioMap := [⟨0x45, ⟨7, .external⟩⟩] } }

/-- The demo machine with a start write outstanding and the walker at FETCH(0) of the record at `a`. -/
def started (ram : Memory) (a : Addr) : State := startTransfer ((demo ram).setDescAddr a)

/-- The same at the pace of R79, so that one step runs the whole record. -/
def wholeRecord (ram : Memory) (a : Addr) : State := (started ram a).setPace .byRecord

/-- Bytes at rising addresses from `a` on, as RAM cells. -/
def cells (a : Nat) : List Byte → Memory
  | [] => []
  | v :: vs => if v = 0 then cells (a + 1) vs else (a, v) :: cells (a + 1) vs

/-- The RAM bytes at some addresses. -/
def bytesAt (s : State) (as : List Addr) : List Byte := as.map s.peek

/-! ## Ill-formed terms are refused -/

theorem test_wf_refuses_start_with_bit0_clear : Instr.wellFormed (.wrCtrlStart 0xFE) = false := by decide
theorem test_wf_refuses_nop_with_bit0_set : Instr.wellFormed (.wrCtrlNop 0x01) = false := by decide
theorem test_memory_wf_refuses_falling_addresses : Memory.wf [(5, 1), (4, 1)] = false := by decide
theorem test_memory_wf_refuses_blank_entry : Memory.wf [(5, 0)] = false := by decide
theorem test_memory_wf_refuses_address_past_4MiB : Memory.wf [(0x400000, 1)] = false := by decide
theorem test_platform_wf_refuses_overlap :
    Platform.wf { Platform.reset with memMap := [⟨0, 2, ⟨1, .ram⟩⟩, ⟨1, 1, ⟨2, .ram⟩⟩] } = false := by decide
theorem test_platform_wf_refuses_region_past_the_last_page :
    Platform.wf { Platform.reset with memMap := [⟨255, 2, ⟨1, .ram⟩⟩] } = false := by decide
theorem test_platform_wf_refuses_engine_port :
    Platform.wf { Platform.reset with ioBase := 0x40, ioMap := [⟨0x44, ⟨7, .external⟩⟩] } = false := by decide
theorem test_platform_wf_refuses_port_bound_twice :
    Platform.wf { Platform.reset with ioBase := 0x40, ioMap := [⟨0x45, ⟨7, .external⟩⟩, ⟨0x45, ⟨8, .external⟩⟩] } = false := by decide
theorem test_platform_wf_refuses_one_number_for_two_kinds :
    Platform.wf { Platform.reset with ioBase := 0x40, ioMap := [⟨0x45, ⟨1, .external⟩⟩] } = false := by decide

/-! ## Every constructor's decoding, from words written out by R52, R54 to R57 and R61 -/

theorem test_decode_rdDesc0 : decodeTableWord 16 0x000 = some .rdDesc0 := by decide
theorem test_decode_rdDesc1 : decodeTableWord 16 0x100 = some .rdDesc1 := by decide
theorem test_decode_rdDesc2 : decodeTableWord 16 0x200 = some .rdDesc2 := by decide
theorem test_decode_rdClk : decodeTableWord 16 0x300 = some .rdClk := by decide
theorem test_decode_rdCtrl : decodeTableWord 16 0x400 = some .rdCtrl := by decide
theorem test_decode_rdNone5 : decodeTableWord 16 0x500 = some .rdNone5 := by decide
theorem test_decode_rdNone6 : decodeTableWord 16 0x600 = some .rdNone6 := by decide
/-- W=0, off=7; the data byte of a read is ignored (R52). -/
theorem test_decode_rdNone7 : decodeTableWord 16 0b011110100101 = some .rdNone7 := by decide
/-- W=1, off=0, data=0x12: P9's 0x812. -/
theorem test_decode_wrDesc0 : decodeTableWord 16 0b100000010010 = some (.wrDesc0 0x12) := by decide
theorem test_decode_wrDesc1 : decodeTableWord 16 0x934 = some (.wrDesc1 0x34) := by decide
theorem test_decode_wrDesc2 : decodeTableWord 16 0xAAB = some (.wrDesc2 0xAB) := by decide
theorem test_decode_wrClk : decodeTableWord 16 0xBA7 = some (.wrClk 0xA7) := by decide
theorem test_decode_wrCtrlStart : decodeTableWord 16 0xC81 = some (.wrCtrlStart 0x81) := by decide
theorem test_decode_wrCtrlNop : decodeTableWord 16 0xCFE = some (.wrCtrlNop 0xFE) := by decide
theorem test_decode_wrNone5 : decodeTableWord 16 0xD01 = some (.wrNone5 0x01) := by decide
theorem test_decode_wrNone6 : decodeTableWord 16 0xE02 = some (.wrNone6 0x02) := by decide
theorem test_decode_wrNone7 : decodeTableWord 16 0xF01 = some (.wrNone7 0x01) := by decide
/-- P4's first record, `00 10 00 00 20 00 04 00 00 05`. -/
theorem test_decode_xfer : decode .desc [0x00, 0x10, 0x00, 0x00, 0x20, 0x00, 0x04, 0x00, 0x00, 0x05] =
    .ok (.xfer ⟨0x001000, 0x002000, 4, .increment, .increment, 0⟩, []) := by decide
/-- Program 2's second record, `03 10 00 00 50 00 04 00 00 16`: flags 0x16 = D, I, last (R63). -/
theorem test_decode_xferLast : decode .desc [0x03, 0x10, 0x00, 0x00, 0x50, 0x00, 0x04, 0x00, 0x00, 0x16] =
    .ok (.xferLast ⟨0x001003, 0x005000, 4, .decrement, .increment, 0⟩, []) := by decide
/-- Every field at its place: read_step = 2, write_step = 3, reserved = 5, bytes 01 to 09. -/
theorem test_decode_fields_at_their_places : decode .desc [0x01, 0x02, 0x03, 0x04, 0x05, 0x06, 0x07, 0x08, 0x09, 0b10101110] =
    .ok (.xfer ⟨0x030201, 0x060504, 0x090807, .decrement, .reserved3, 5⟩, []) := by decide
theorem test_decode_refuses_short_record : decode .desc [0, 0, 0, 0, 0, 0, 0, 0, 0] = .error .truncated := by decide
theorem test_decode_refuses_bits_above_a_word : decode .pt [0x00, 0x10] = .error .notATransaction := by decide
theorem test_decodeTableWord_refuses_bits_above_a_word : decodeTableWord 16 0x1000 = none := by decide
/-- R63: the flags byte of (I, D) is 0x09, with `last` 0x19. -/
theorem test_encode_flags : flagsByte ⟨0, 0, 0, .increment, .decrement, 0⟩ false = 0x09 ∧
    flagsByte ⟨0, 0, 0, .increment, .decrement, 0⟩ true = 0x19 := by decide

/-! ## Register-port operations -/

/-- P9's read-back of 0xAB3412, one byte at a time. -/
theorem test_rdDesc0 : (after (exec .rdDesc0 ((demo []).setDescAddr 0xAB3412))).replies = [.data 0x12] := by decide
theorem test_rdDesc1 : (after (exec .rdDesc1 ((demo []).setDescAddr 0xAB3412))).replies = [.data 0x34] := by decide
theorem test_rdDesc2 : (after (exec .rdDesc2 ((demo []).setDescAddr 0xAB3412))).replies = [.data 0xAB] := by decide
/-- P-1: `clk` reads 0x11 after init. -/
theorem test_rdClk_after_init : (after (exec .rdClk State.reset)).replies = [.data 0x11] := by decide
theorem test_rdCtrl : (after (exec .rdCtrl (demo []))).replies = [.data 0x00] ∧ (after (exec .rdCtrl (demo []))).walker = .idle := by decide
theorem test_rdNone6 : (after (exec .rdNone6 (demo []))).replies = [.data 0x00] := by decide
/-- P-3. -/
theorem test_wrDesc0 : (after (exec (.wrDesc0 0x00) ((demo []).setDescAddr 0xAB3412))).descAddr = 0xAB3400 := by decide
/-- P-2. -/
theorem test_wrDesc1 : (after (exec (.wrDesc1 0xFF) ((demo []).setDescAddr 0xAB3412))).descAddr = 0xABFF12 := by decide
/-- P-4: bits 7:6 of the byte are kept in the register and masked on the bus. -/
theorem test_wrDesc2 : (after (exec (.wrDesc2 0xC0) (demo []))).descAddr = 0xC00000 ∧ physOf 0xC00000 = 0 := by decide
/-- R18, R68: 0xA7 is rd_cycle = 7, wr_cycle = 10. -/
theorem test_wrClk : (after (exec (.wrClk 0xA7) (demo []))).clk = 0xA7 ∧ (after (exec (.wrClk 0xA7) (demo []))).rdCycle = 7 ∧
    (after (exec (.wrClk 0xA7) (demo []))).wrCycle = 10 := by decide
theorem test_wrCtrlStart : (after (exec (.wrCtrlStart 0x81) (demo []))).walker = .fetch 0 ∧
    (after (exec (.wrCtrlStart 0x81) (demo []))).pending = true ∧ (after (exec (.wrCtrlStart 0x81) (demo []))).replies = [] := by decide
/-- P-8. -/
theorem test_wrCtrlNop : exec (.wrCtrlNop 0xFE) (demo []) = .next ((demo []).reply .done) := by rfl
/-- P-11. -/
theorem test_wrNone7 : exec (.wrNone7 0x01) (demo []) = .next ((demo []).reply .done) := by rfl

/-! ## Events -/

/-- P-13. -/
theorem test_reset_event : (after (accept .reset (((demo []).setDescAddr 0x123456).setClk 0x9A))).clk = 0x56 ∧
    (after (accept .reset (((demo []).setDescAddr 0x123456).setClk 0x9A))).descAddr = 0x123456 := by decide
/-- P-14. -/
theorem test_init_event : (after (accept .init (((demo []).setDescAddr 0x123456).setClk 0x9A))).clk = 0x11 ∧
    (after (accept .init (((demo []).setDescAddr 0x123456).setClk 0x9A))).descAddr = 0x000000 := by decide
/-- P2's instance: a write to port 0x44 starts a transfer, one to port 0x45 goes to another device and starts none. -/
theorem test_io_write_routes_by_port : (after (accept (.ioWrite 0x44 0x01) (demo []))).walker = .fetch 0 ∧
    (after (accept (.ioWrite 0x45 0x01) (demo []))).walker = .idle := by decide
/-- R40: an unbound port reads as `IDLE_IO_BYTE`. -/
theorem test_io_read_of_unbound_port : (after (accept (.ioRead 0x3F) (demo []))).replies = [.data 0xDD] := by decide

/-! ## Address resolution -/

/-- P1's table. -/
theorem test_resolve : (pageOf 0x003FFF, offsetOf 0x003FFF) = (0x00, 0x3FFF) ∧ (pageOf 0x004000, offsetOf 0x004000) = (0x01, 0x0000) ∧
    (pageOf 0x7FC123, offsetOf 0x7FC123) = (0xFF, 0x0123) ∧ (pageOf 0xAB3412, offsetOf 0xAB3412) = (0xAC, 0x3412) := by decide
/-- R39: the unbound page 0xF1 reads as `IDLE_MEM_BYTE`. -/
theorem test_unbound_page_reads_idle : busValue 0x3C4000 (demo []) = 0xEE := by decide
/-- R38, R45: a device's page answers a read after the write before it, at the page-relative offset 0x0000, and so does a port. -/
theorem test_device_answers_after_a_write :
    busValue 0x3C0000 (masterWrite 0x7C0001 0x5A (demo [])) = Config.deviceByte 9 0x0000 [.write 0x0001 0x5A] ∧
    (after (accept (.ioRead 0x45) (after (accept (.ioWrite 0x45 0x5A) (demo []))))).replies =
      [.data (Config.portByte 7 0x45 [.portWrite 0x45 0x5A]), .done] := ⟨rfl, rfl⟩
/-- R41: a region bound over a bound slot, or off a page boundary, is rejected. -/
theorem test_bind_rejects : (demo []).plat.bindMem 0x4000 0x8000 ⟨3, .ram⟩ = .error .overlap ∧
    (demo []).plat.bindMem 0x3C4001 0x4000 ⟨3, .ram⟩ = .error .misaligned ∧
    (demo []).plat.bindPort 0x44 ⟨3, .external⟩ = .error .overlap := by decide

/-! ## The walker's steps -/

/-- W12: the fetch of a record at 0xFFFFFC reads 0x000000 at k = 4. -/
theorem test_fetch_wraps : (tick ((started [] 0xFFFFFC).setWalker (.fetch 4))).trace = [.read 0x000000 0x00] ∧
    (tick ((started [] 0xFFFFFC).setWalker (.fetch 4))).walker = .fetch 5 := by decide
/-- W3 and W4: the counters wrap. -/
theorem test_step_modes_wrap : stepAddr .increment 0xFFFFFF = 0x000000 ∧ stepAddr .decrement 0x000000 = 0xFFFFFF := by decide

/-- R81: from FETCH(0) a step of the machine makes one read and goes to FETCH(1). -/
theorem test_step_makes_one_bus_operation :
    (after (step (started [] 0x100))).walker = .fetch 1 ∧ (after (step (started [] 0x100))).trace = [.read 0x100 0x00] := by decide

/-! ## Whole records -/

/-- P4's first record: 01 02 03 04 copied, the walker goes on at 0x00010A. -/
theorem test_xfer_copies_and_goes_on :
    let t := after (step (wholeRecord (cells 0x100 [0x00, 0x10, 0x00, 0x00, 0x20, 0x00, 0x04, 0x00, 0x00, 0x05] ++ cells 0x1000 [1, 2, 3, 4]) 0x100))
    bytesAt t [0x2000, 0x2001, 0x2002, 0x2003] = [1, 2, 3, 4] ∧ t.descAddr = 0x00010A ∧ t.walker = .fetch 0 ∧ t.pending = true := by decide
/-- Program 2's first record: a FIXED source fills the destination. -/
theorem test_xfer_fixed_source_fills :
    let t := after (step (wholeRecord (cells 0x200 [0x00, 0x30, 0x00, 0x00, 0x40, 0x00, 0x03, 0x00, 0x00, 0x04] ++ cells 0x3000 [0x5A]) 0x200))
    bytesAt t [0x4000, 0x4001, 0x4002, 0x4003] = [0x5A, 0x5A, 0x5A, 0x00] ∧ t.descAddr = 0x00020A := by decide
/-- W8: a block moved up by one with both steps DECREMENT; the transfer ends. -/
theorem test_xferLast_moves_up :
    let t := after (step (wholeRecord (cells 0x100 [0x03, 0x10, 0x00, 0x04, 0x10, 0x00, 0x04, 0x00, 0x00, 0x1A] ++ cells 0x1000 [1, 2, 3, 4]) 0x100))
    bytesAt t [0x1000, 0x1001, 0x1002, 0x1003, 0x1004] = [1, 1, 2, 3, 4] ∧ t.walker = .idle ∧ t.pending = false ∧ t.replies = [.done] := by decide
/-- W14: a record that clears its own `flags` byte still stops, after 12 bus operations. -/
theorem test_xferLast_overwrites_itself :
    let t := after (step (wholeRecord (cells 0x700 [0x00, 0x08, 0x00, 0x09, 0x07, 0x00, 0x01, 0x00, 0x00, 0x10]) 0x700))
    t.peek 0x709 = 0x00 ∧ t.descAddr = 0x00070A ∧ t.walker = .idle ∧ t.trace.length = 12 := by decide

/-! ## The host's placing of one word -/

theorem test_withFetchWord_pt : step (State.reset.withFetchWord 16 0xB9A) = exec (.wrClk 0x9A) State.reset := by rfl
theorem test_withFetchWord_desc : (after (step (State.reset.withFetchWord 80 0x15000000002000001000))).descAddr = 0x00000A ∧
    (after (step (State.reset.withFetchWord 80 0x15000000002000001000))).walker = .idle := by decide

/-! ## Witnesses: for each statement with hypotheses, a state that meets them all -/

/-- A record that copies one byte 0x41 from 0x1000 to 0x2000 with both steps INCREMENT. -/
def oneByte : Desc := ⟨0x1000, 0x2000, 1, .increment, .increment, 0⟩

/-- Two bytes at 0x1000, and a BUSY walker. -/
def busyState : State := started (cells 0x1000 [0x41, 0x42]) 0x100

/-- A record that copies two bytes from 0x1000 to 0x2000 with both steps INCREMENT. -/
def twoBytes : Desc := ⟨0x1000, 0x2000, 2, .increment, .increment, 0⟩

theorem witness_InitEventSetsInitValues :
    ((demo []).setInputs [.init]).walker = .idle ∧ ((demo []).setInputs [.init]).inputs = [.init] := by decide
theorem witness_ResetEventKeepsDescAddr :
    ((demo []).setInputs [.reset, .init]).walker = .idle ∧ ((demo []).setInputs [.reset, .init]).inputs = [.reset, .init] := by decide
theorem witness_DescAddrReadsReturnTheirByte : ((demo []).setDescAddr 0xFFFFFF).walker = .idle := by decide
theorem witness_DescAddrWritesChangeTheirByte : ((demo []).setDescAddr 0x000000).walker = .idle := by decide
theorem witness_ClkReadsAndWritesTheRawByte : ((demo []).setClk 0xFF).walker = .idle := by decide
theorem witness_CtrlAndUnknownOffsetsReadZero : (demo []).walker = .idle := by decide
theorem witness_StartWriteBeginsAtFetchZero : (demo []).walker = .idle ∧ (0xFF#8).getLsbD 0 = true := by decide
theorem witness_CtrlWriteWithoutStartBitDoesNothing : (demo []).walker = .idle ∧ (0xFE#8).getLsbD 0 = false := by decide
theorem witness_UnknownOffsetWritesDoNothing : (demo []).walker = .idle := by decide
theorem witness_DescAddrWritesInAnyOrderBuildTheAddress : (demo []).walker = .idle ∧
    List.Perm [Instr.wrDesc2 (0xAB3412#24 |>.extractLsb' 16 8), .wrDesc0 (0xAB3412#24 |>.extractLsb' 0 8), .wrDesc1 (0xAB3412#24 |>.extractLsb' 8 8)]
      [.wrDesc0 (0xAB3412#24 |>.extractLsb' 0 8), .wrDesc1 (0xAB3412#24 |>.extractLsb' 8 8), .wrDesc2 (0xAB3412#24 |>.extractLsb' 16 8)] := by decide
/-- Both clauses: a transaction while BUSY, and a record in IDLE. -/
theorem witness_TransactionHeldWhileBusyAndRecordWhileIdle :
    (Instr.form (.wrCtrlStart 1) = .pt ∧ busyState.busy = true) ∧ (Instr.form (.xfer oneByte) = .desc ∧ (demo []).walker = .idle) := by decide
/-- Both outcomes at both paces: a BUSY step that stays BUSY, and one that completes. -/
theorem witness_BusyStepTakesNoEvent : busyState.busy = true ∧ (after (step busyState)).busy = true ∧
    ((latch oneByte true busyState).setWalker .advance).busy = true ∧
    (after (step ((latch oneByte true busyState).setWalker .advance))).walker = .idle ∧
    (wholeRecord (cells 0x109 [0x10]) 0x100).busy = true ∧
    (after (step (wholeRecord (cells 0x109 [0x10]) 0x100))).walker = .idle := by decide
/-- Both ways a start write arrives. -/
theorem witness_OnlyStartWriteLeavesIdle :
    ((demo []).setInputs [.pt 0xC01]).walker = .idle ∧ (after (step ((demo []).setInputs [.pt 0xC01]))).busy = true ∧
    ((demo []).setInputs [.ioWrite 0x44 0x81]).walker = .idle ∧ (after (step ((demo []).setInputs [.ioWrite 0x44 0x81]))).busy = true := by decide
theorem witness_IdleMachineWaits : (demo []).walker = .idle ∧ (demo []).inputs = [] := by decide
theorem witness_StepRunsPortTransaction : ((demo []).setInputs [.pt 0xFFF]).walker = .idle ∧ ((demo []).setInputs [.pt 0xFFF]).inputs = [.pt 0xFFF] := by decide
/-- A record that straddles the 2^24 wrap. -/
theorem witness_StepRunsRecordAtDescAddr :
    (wholeRecord (cells 0 [0x15] ++ cells 0x3FFFFC [1, 2, 3, 4]) 0xFFFFFC).pace = .byRecord ∧
    (wholeRecord (cells 0 [0x15] ++ cells 0x3FFFFC [1, 2, 3, 4]) 0xFFFFFC).walker = .fetch 0 ∧
    (wholeRecord (cells 0 [0x15] ++ cells 0x3FFFFC [1, 2, 3, 4]) 0xFFFFFC).holdsRecord 0xFFFFFC #v[1, 2, 3, 4, 0x15, 0, 0, 0, 0, 0] := by decide
/-- Each clause at its boundaries: offsets 0 and 4, and the ports just below (unbound) and just above (a device) the engine's five. -/
theorem witness_IoPortsRouteByBase : (demo []).walker = .idle ∧
    ((0#3).toNat ≤ 4 ∧ (0x40#8).toNat = (demo []).plat.ioBase.val + (0#3).toNat) ∧
    ((4#3).toNat ≤ 4 ∧ (0x44#8).toNat = (demo []).plat.ioBase.val + (4#3).toNat) ∧
    (0x3F#8).toNat < (demo []).plat.ioBase.val ∧ (demo []).plat.ioBase.val + 4 < (0x45#8).toNat ∧
    (∀ b ∈ (demo []).plat.ioMap, b.port ≠ 0x3F) ∧ (demo []).plat.ioMap.find? (fun b => b.port = 0x45) = some ⟨0x45, ⟨7, .external⟩⟩ ∧
    ((demo []).setInputs [.ioRead 0x45]).inputs = [.ioRead 0x45] ∧ ((demo []).setInputs [.ioWrite 0x3F 1]).inputs = [.ioWrite 0x3F 1] := by
  decide
/-- The clauses: a write and a read, of a RAM page and of a device's page. -/
theorem witness_RequesterSharesTheMemory :
    ((demo []).setInputs [.memWrite 0x400000 7]).walker = .idle ∧ (demo []).ram.wf = true ∧ (demo []).isRam 0x400000 = true ∧
    ((demo []).setInputs [.memWrite 0x400000 7]).inputs = [.memWrite 0x400000 7] ∧
    ((demo []).setInputs [.memRead 0x400000]).inputs = [.memRead 0x400000] ∧ (demo []).plat.slot 0x3C3FFF = .external 9 := by decide
/-- The clauses: a device's page, a RAM page and an unbound one. -/
theorem witness_DeviceGetsEachAccessOnce : (demo []).plat.slot 0x3C3FFF = .external 9 ∧ (demo []).plat.slot 0x3BFFFF = .ram ∧
    (demo []).plat.slot 0x3C4000 = .unbound := by decide
/-- The same device and another one. -/
theorem witness_DeviceAnswersAfterEveryEarlierAccess : ((demo []).logDevice 9 (.write 0 1)).plat.slot 0x3C0000 = .external 9 ∧
    ((demo []).logDevice 9 (.write 0 1)).devLog = ⟨9, .write 0 1⟩ :: (demo []).devLog ∧
    ((demo []).logDevice 7 (.portWrite 0x45 1)).plat.slot 0x3C0000 = .external 9 ∧
    ((demo []).logDevice 7 (.portWrite 0x45 1)).devLog = ⟨7, .portWrite 0x45 1⟩ :: (demo []).devLog := by decide
/-- The second clause on a waiting machine, the third on an IDLE one, the fourth after one step from reset. -/
theorem witness_StepsFromResetAreEngineSteps : step (demo []) = .next (demo []) ∧ (demo []).walker = .idle ∧
    (run 1 { State.reset with inputs := [.pt 0xC01] }).busy = true := ⟨rfl, by decide, by decide⟩
/-- Both ends of the range: k = 0 and k = 8. -/
theorem witness_FetchStepReadsOneByteOfTheRecord :
    busyState.walker = .fetch (Fin.castSucc (0 : Fin 9)) ∧ (busyState.setWalker (.fetch 8)).walker = .fetch (Fin.castSucc (8 : Fin 9)) := by decide
theorem witness_DecodeStepLatchesTheFields : (busyState.setWalker (.fetch 9)).walker = .fetch 9 := by decide
theorem witness_CopyReadStepReadsOneByte : (busyState.setWalker .copyRd).walker = .copyRd := by decide
/-- A write to RAM and one to an unbound page; the last byte and one before. -/
theorem witness_CopyWriteStepWritesOneByte :
    ((latch oneByte true busyState).setWalker .copyWr).walker = .copyWr ∧ (latch oneByte true busyState).work.count = 1#24 ∧
    busyState.isRam 0x2000 = true ∧ ((latch { oneByte with writeAddress := 0x3C4000, length := 2 } true busyState).setWalker .copyWr).walker = .copyWr ∧
    busyState.isRam 0x3C4000 = false := by decide
/-- Both clauses: a record that is not last, and one that is. -/
theorem witness_AdvanceStepMovesPastTheRecord :
    ((latch oneByte false busyState).setWalker .advance).walker = .advance ∧ (latch oneByte false busyState).work.last = false ∧
    ((latch oneByte true busyState).setWalker .advance).walker = .advance ∧ (latch oneByte true busyState).work.last = true := by decide
theorem witness_XferRunsTheCopyLoopAndContinues :
    (#v[0, 0, 0, 0, 0, 0, 0, 0, 0, 0xEF#8] : Vector Byte 10)[9].getLsbD 4 = false ∧ busyState.busy = true := by decide
theorem witness_XferLastRunsTheCopyLoopAndCompletes :
    (#v[0, 0, 0, 0, 0, 0, 0, 0, 0, 0x10#8] : Vector Byte 10)[9].getLsbD 4 = true ∧ busyState.busy = true := by decide
theorem witness_TransferLeavesEverythingElseAlone : busyState.busy = true ∧ busyState.ram.wf = true ∧
    ∀ j < twoBytes.length.toNat, physOf (stepMany twoBytes.writeStep j twoBytes.writeAddress) ≠ physOf 0x2002 := by decide
/-- Both clauses: a record of length 0, and the end of the fetch of one. -/
theorem witness_ZeroLengthRecordCopiesNothing : (busyState.busy = true ∧ ({ oneByte with length := 0 } : Desc).length = 0#24) ∧
    ((started [] 0x600).setWalker (.fetch 9)).walker = .fetch 9 ∧ (tick ((started [] 0x600).setWalker (.fetch 9))).work.count = 0#24 := by decide
theorem witness_ReservedEncodingsChangeNothing : busyState.busy = true ∧
    exec (.xfer { oneByte with readStep := .fixed }) busyState = .next (after (exec (.xfer { oneByte with readStep := .fixed }) busyState)) ∧
    exec (.xfer { oneByte with writeStep := .fixed }) busyState = .next (after (exec (.xfer { oneByte with writeStep := .fixed }) busyState)) :=
  ⟨by decide, rfl, rfl⟩
/-- Two records of length 0 in blank RAM. -/
theorem witness_BusOperationsOfAChainInOrder : ∀ m < 2, (walk m (started [] 0x600)).walker = .fetch 0 := by decide
/-- A record that copies two bytes, at FETCH(0), at both paces. -/
theorem witness_RecordStepRefinesTheStateMachine :
    (started [] 0x100).pace = .byBusOperation ∧ (wholeRecord [] 0x100).pace = .byRecord ∧ (wholeRecord [] 0x100).walker = .fetch 0 ∧
    (started (cells 0x100 [0x00, 0x10, 0x00, 0x00, 0x20, 0x00, 0x02, 0x00, 0x00, 0x05] ++ cells 0x113 [0x10]) 0x100).walker = .fetch 0 := by decide
/-- A chain of a record that copies two bytes and a last one, which ends the transfer. -/
theorem witness_ChainTakesItsStepCount :
    let s := started (cells 0x100 [0x00, 0x10, 0x00, 0x00, 0x20, 0x00, 0x02, 0x00, 0x00, 0x05] ++ cells 0x113 [0x10]) 0x100
    s.walker = .fetch 0 ∧ (∀ m < 2, (walk m s).walker = .fetch 0) ∧ (walk 2 s).walker = .idle ∧ chainTicks 2 s = 26 ∧ s.pace = .byBusOperation := by decide
/-- The three clauses: a last record, two that are not last, and a BUSY engine. -/
theorem witness_TransferEndsOnlyAfterALastRecord :
    ((started (cells 0x109 [0x10]) 0x100).walker = .fetch 0 ∧ (started (cells 0x109 [0x10]) 0x100).record[9].getLsbD 4 = true) ∧
    ((started [] 0x600).walker = .fetch 0 ∧ ∀ m < 2, (walk m (started [] 0x600)).record[9].getLsbD 4 = false) ∧ busyState.busy = true := by decide
/-- A walk across the 2^24 wrap. -/
theorem witness_ChainAdvancesTenByTen : ∀ m < 2, (walk m (started [] 0xFFFFFC)).walker = .fetch 0 := by decide
theorem witness_ZeroMemoryChainNeverCompletes :
    (startTransfer State.reset).walker = .fetch 0 ∧ (∀ a, (startTransfer State.reset).isRam a = true) ∧ (startTransfer State.reset).ram = [] := by
  refine ⟨rfl, fun a => ?_, rfl⟩
  have h : (pageOf a).toNat < 256 := (pageOf a).isLt
  have hf : Platform.reset.entry (pageOf a).toNat = some ⟨0, 256, ⟨1, .ram⟩⟩ := by
    simp [Platform.entry, Platform.reset, MemBinding.covers, h]
  simp only [State.isRam, Platform.slot, show (startTransfer State.reset).plat = Platform.reset from rfl, hf]
  rfl
/-- A DECREMENT source and an INCREMENT destination that do not meet; every destination byte is written once. -/
theorem witness_CopyClosedFormForEveryMode :
    let d : Desc := ⟨0x1001, 0x2000, 2, .decrement, .increment, 0⟩
    busyState.busy = true ∧ busyState.ram.wf = true ∧ busyState.ramRange d.readStep d.readAddress d.length.toNat ∧
    busyState.ramRange d.writeStep d.writeAddress d.length.toNat ∧
    (∀ j < d.length.toNat, ∀ k < d.length.toNat,
      physOf (stepMany d.readStep j d.readAddress) ≠ physOf (stepMany d.writeStep k d.writeAddress)) ∧
    (∀ k, 0 < k → k < d.length.toNat → physOf (stepMany d.writeStep k d.writeAddress) ≠ physOf (stepMany d.writeStep 0 d.writeAddress)) := by
  refine ⟨by decide, by decide, by decide, by decide, by decide, fun k h1 h2 => ?_⟩
  have : k = 1 := by have : k < 2 := h2; omega
  subst this; decide
theorem witness_ForwardCopyIsByteForByte :
    busyState.busy = true ∧ busyState.ram.wf = true ∧ twoBytes.readStep = .increment ∧ twoBytes.writeStep = .increment ∧ 1 ≤ twoBytes.length.toNat ∧
    (∀ j < twoBytes.length.toNat, busyState.isRam (twoBytes.readAddress + BitVec.ofNat 24 j) = true ∧
      busyState.isRam (twoBytes.writeAddress + BitVec.ofNat 24 j) = true) ∧
    (∀ j < twoBytes.length.toNat, ∀ k < twoBytes.length.toNat,
      physOf (twoBytes.readAddress + BitVec.ofNat 24 j) ≠ physOf (twoBytes.writeAddress + BitVec.ofNat 24 k)) := by decide
theorem witness_ForwardOverlapPropagatesTheFirstByte :
    let d : Desc := ⟨0x1000, 0x1001, 3, .increment, .increment, 0⟩
    busyState.busy = true ∧ busyState.ram.wf = true ∧ d.writeAddress = d.readAddress + 1#24 ∧ d.length.toNat < 2 ^ 22 ∧
    (∀ j ≤ d.length.toNat, busyState.isRam (d.readAddress + BitVec.ofNat 24 j) = true) := by decide
theorem witness_ForwardCopyDownIsExact :
    let d : Desc := ⟨0x1001, 0x1000, 4, .increment, .increment, 0⟩
    busyState.busy = true ∧ busyState.ram.wf = true ∧ d.readAddress = d.writeAddress + BitVec.ofNat 24 1 ∧ d.length.toNat + 1 ≤ 2 ^ 22 ∧
    (∀ j < d.length.toNat + 1, busyState.isRam (d.writeAddress + BitVec.ofNat 24 j) = true) := by decide
theorem witness_CopyOntoItselfChangesNoByte :
    let d : Desc := ⟨0x1000, 0x1000, 2, .increment, .increment, 0⟩
    busyState.busy = true ∧ busyState.ram.wf = true ∧ d.readAddress = d.writeAddress ∧ d.readStep = d.writeStep := by decide

/-- Program 3's image: the record at 0x300 copies the record at 0x400 over the one at 0x30A. -/
def patching : State := started (cells 0x300 [0x00, 0x04, 0x00, 0x0A, 0x03, 0x00, 0x0A, 0x00, 0x00, 0x05] ++ cells 0x313 [0x10] ++
  cells 0x400 [0xFF, 0xFF, 0xFF, 0x00, 0x05, 0x00, 0x02, 0x00, 0x00, 0x15]) 0x300

theorem witness_PatchedNextRecordIsFetched :
    let b : Vector Byte 10 := #v[0x00, 0x04, 0x00, 0x0A, 0x03, 0x00, 0x0A, 0x00, 0x00, 0x05]
    let d : Desc := ⟨0x000400, 0x00030A, 10, .increment, .increment, 0⟩
    patching.walker = .fetch 0 ∧ patching.ram.wf = true ∧ patching.holdsRecord patching.descAddr b ∧ decodeDesc b = .xfer d ∧
    d.length = 10#24 ∧ d.writeAddress = patching.descAddr + 10#24 ∧
    patching.holdsRecord d.readAddress #v[0xFF, 0xFF, 0xFF, 0x00, 0x05, 0x00, 0x02, 0x00, 0x00, 0x15] ∧
    (∀ k : Fin 10, patching.isRam (patching.descAddr + 10#24 + BitVec.ofNat 24 k.val) = true) ∧
    (∀ j k : Fin 10, physOf (d.readAddress + BitVec.ofNat 24 j.val) ≠ physOf (patching.descAddr + 10#24 + BitVec.ofNat 24 k.val)) := by decide
theorem witness_ClkHasNoEffectOnATransfer : busyState.busy = true ∧ step busyState = .next (after (step busyState)) := ⟨by decide, rfl⟩
/-- Both sides of the first clause's hypothesis: an IDLE machine and a walker at FETCH(0), which the second clause asks too. -/
theorem witness_IdleWorkingRegistersAreNeverRead :
    ((demo []).walker = .idle ∧ step (demo []) = .next (demo [])) ∧
    (busyState.walker = .fetch 0 ∧ step busyState = .next (after (step busyState))) := ⟨⟨by decide, rfl⟩, by decide, rfl⟩
theorem demo_inv : (demo []).Inv := ⟨by decide, by decide, by decide, by decide⟩
theorem witness_StepKeepsTheInvariant : (demo []).Inv ∧ step (demo []) = .next (demo []) := ⟨demo_inv, rfl⟩
/-- A state inside a record, at COPY_WR with a byte left. -/
theorem witness_EngineStepKeepsTheInvariant : ((latch oneByte true busyState).setWalker .copyWr).Inv :=
  ⟨by decide, by decide, by decide, by decide⟩
theorem witness_DecodeOfEncodeIsTheInstruction : Instr.wellFormed (.wrCtrlStart 0xFF) = true ∧ Instr.wellFormed (.wrCtrlNop 0x00) = true ∧
    Instr.wellFormed (.xferLast ⟨0xFFFFFF, 0x000000, 0xFFFFFF, .reserved3, .decrement, 7⟩) = true := by decide
/-- The two clauses about words: a write word and a read word. -/
theorem witness_EncodeOfDecodeIsTheWord : (0x800#12).getLsbD 11 = true ∧ (0x7FF#12).getLsbD 11 = false := by decide
/-- Two addresses 4 MiB apart. -/
theorem witness_AddressesResolveModuloFourMiB : (0x3FFFFF#24).toNat % 2 ^ 22 = (0xFFFFFF#24).toNat % 2 ^ 22 := by decide
theorem witness_UnboundPageReadsIdleAndIgnoresWrites :
    ∀ b ∈ (demo []).plat.memMap, b.covers ((0x3C4000#24).toNat % 2 ^ 22 / 16384) = false := by decide
/-- The three clauses: a region bound, a port bound, and a region over a bound slot, at the edges of the free page 0xF1. -/
theorem witness_BindingsKeepTheMachineAssembled : (demo []).plat.wf = true ∧
    (∃ q, (demo []).plat.bindMem 0x3C4000 0x4000 ⟨3, .external⟩ = .ok q) ∧ (∃ q, (demo []).plat.bindPort 0x3F ⟨3, .external⟩ = .ok q) ∧
    (0x3C4000 / 16384 ≤ 0xF2 ∧ 0xF2 < (0x3C4000 + 0x8000) / 16384 ∧ 0x3C4000 % 16384 = 0 ∧ 0x8000 % 16384 = 0 ∧
      0x3C4000 + 0x8000 ≤ 2 ^ 22 ∧ ((demo []).plat.entry 0xF2).isSome) :=
  ⟨by decide, ⟨_, rfl⟩, ⟨_, rfl⟩, by decide⟩

end Sys2Proof.Tests
end

/-! PROOFS. The engine's state (10_state.md): the invariant, what a BUSY step leaves alone, and the two fields a run does not depend on. -/

namespace Sys2Proof.Machine

/-! ## What a step of the engine does in FETCH(k) -/

/-- FETCH(k) goes on to FETCH(k + 1), and FETCH(9) decodes the record (R83, R84). -/
theorem tickFetch_cases (k : Fin 10) (s : State) :
    (∃ h : k.val < 9, tickFetch k s = (fetchByte k s).setWalker (.fetch ⟨k.val + 1, by omega⟩)) ∨
    (k = 9 ∧ tickFetch k s = decodeRecord (fetchByte k s)) := by
  by_cases h : k.val < 9
  · exact .inl ⟨h, by simp [tickFetch, h]⟩
  · exact .inr ⟨Fin.ext (by simp; omega), by simp [tickFetch, h]⟩

/-- DECODE latches the record's fields, and goes to COPY_RD exactly when there is a byte to copy (R84, R98). -/
theorem decodeRecord_cases (s : State) :
    ((recordDesc s.work.descBuf).length ≠ 0#24 ∧ decodeRecord s =
      (latch (recordDesc s.work.descBuf) (recordLast s.work.descBuf) s).setWalker .copyRd) ∨
    ((recordDesc s.work.descBuf).length = 0#24 ∧ decodeRecord s =
      (latch (recordDesc s.work.descBuf) (recordLast s.work.descBuf) s).setWalker .advance) := by
  by_cases h : (recordDesc s.work.descBuf).length = 0#24
  · exact .inr ⟨h, by simp [decodeRecord, h]⟩
  · exact .inl ⟨h, by simp [decodeRecord, h]⟩

/-! ## The RAM stays in canonical form -/

theorem physOf_lt_memSize (a : Addr) : (physOf a).toNat < Config.memSize := (physOf a).isLt

theorem busWrite_ram_wf {s : State} (a : Addr) (v : Byte) (h : s.ram.wf = true) : (busWrite a v s).ram.wf = true := by
  rcases busWrite_eq a v s with ⟨-, e⟩ | ⟨-, e⟩ | ⟨_, -, e⟩ <;> rw [e]
  · exact Memory.write_wf h (physOf_lt_memSize a)
  · exact h
  · exact h

theorem copyWrite_ram_wf {s : State} (h : s.ram.wf = true) : (copyWrite s).ram.wf = true := by
  simpa [copyWrite, masterWrite] using busWrite_ram_wf s.work.wrPtr s.work.data h

theorem copyByte_ram_wf {s : State} (h : s.ram.wf = true) : (copyByte s).ram.wf = true :=
  copyWrite_ram_wf (by simpa using h)

theorem copyBytes_ram_wf (n : Nat) {s : State} (h : s.ram.wf = true) : (copyBytes n s).ram.wf = true := by
  induction n generalizing s with
  | zero => exact h
  | succ n ih => exact ih (copyByte_ram_wf h)

theorem runRecord_ram_wf (d : Desc) (last : Bool) {s : State} (h : s.ram.wf = true) : (runRecord d last s).ram.wf = true :=
  copyBytes_ram_wf _ (s := latch d last s) h

/-! ## The invariant -/

theorem State.Inv.pending_of_busy {s : State} (h : s.Inv) (hw : s.walker ≠ .idle) : s.pending = true :=
  h.1.trans ((busy_iff s).mpr hw)

theorem State.Inv.not_pending_of_idle {s : State} (h : s.Inv) (hw : s.walker = .idle) : s.pending = false :=
  h.1.trans (by simp [State.busy, hw])

/-- In IDLE the invariant asks nothing of the working registers (R23). -/
theorem State.Inv.of_idle {s : State} (hw : s.walker = .idle) (hp : s.pending = false) (hr : s.ram.wf = true)
    (hpl : s.plat.wf = true) : s.Inv :=
  ⟨by simp [hp, State.busy, hw], hr, hpl, by simp [hw], by simp [hw]⟩

/-- In FETCH(k) the invariant asks that the register `k` holds the index (R23, R24). -/
theorem State.Inv.of_fetch {s : State} {k : Fin 10} (hw : s.walker = .fetch k) (hk : s.work.k = BitVec.ofNat 4 k.val)
    (hp : s.pending = true) (hr : s.ram.wf = true) (hpl : s.plat.wf = true) : s.Inv := by
  refine ⟨by simp [hp, State.busy, hw], hr, hpl, by simp [hw], fun j hj => ?_⟩
  obtain rfl : k = j := Walker.fetch.inj (hw ▸ hj)
  exact hk

/-- Past the fetch the invariant asks for a byte left to copy, in ADVANCE not even that (R84, R87). -/
theorem State.Inv.of_decoded {s : State} (hw : s.walker = .copyRd ∨ s.walker = .copyWr ∨ s.walker = .advance)
    (hc : s.walker = .advance ∨ s.work.count ≠ 0#24) (hp : s.pending = true) (hr : s.ram.wf = true) (hpl : s.plat.wf = true) : s.Inv := by
  have hb : s.busy = true := (busy_iff s).mpr (by rcases hw with h | h | h <;> simp [h])
  refine ⟨by rw [hp, hb], hr, hpl, fun h => ?_, fun k h => ?_⟩
  · rcases hc with hc | hc
    · simp [hc] at h
    · exact hc
  · simp [h] at hw

/-- The index register holds the next index after FETCH(k) (R23, R83). -/
theorem fetchByte_work_k (k : Fin 10) (s : State) : (fetchByte k s).work.k = nextIndex k := rfl

theorem decodeRecord_keeps_inv {s : State} (hp : s.pending = true) (hr : s.ram.wf = true) (hpl : s.plat.wf = true) :
    (decodeRecord s).Inv := by
  rcases decodeRecord_cases s with ⟨hl, e⟩ | ⟨-, e⟩ <;> rw [e]
  · exact .of_decoded (.inl rfl) (.inr hl) hp hr hpl
  · exact .of_decoded (.inr (.inr rfl)) (.inl rfl) hp hr hpl

theorem tickFetch_keeps_inv (k : Fin 10) {s : State} (hp : s.pending = true) (hr : s.ram.wf = true) (hpl : s.plat.wf = true) :
    (tickFetch k s).Inv := by
  rcases tickFetch_cases k s with ⟨h, e⟩ | ⟨-, e⟩ <;> rw [e]
  · exact .of_fetch rfl (by simp [fetchByte_work_k, nextIndex, h]) (by simpa using hp) (by simpa using hr) (by simpa using hpl)
  · exact decodeRecord_keeps_inv (by simpa using hp) (by simpa using hr) (by simpa using hpl)

/-- A step of the engine keeps the invariant, one state of the walker after the other (R83 to R89). -/
theorem tick_keeps_inv {s : State} (h : s.Inv) : (tick s).Inv := by
  have ⟨_, hr, hpl, hc, _⟩ := h
  rcases tick_cases s with ⟨-, e⟩ | ⟨k, hw, e⟩ | ⟨hw, e⟩ | ⟨hw, e⟩ | ⟨hw, -, e⟩ | ⟨-, -, e⟩ <;> rw [e]
  · exact h
  · exact tickFetch_keeps_inv k (h.pending_of_busy (by simp [hw])) hr hpl
  · have hp := h.pending_of_busy (by simp [hw])
    exact .of_decoded (.inr (.inl rfl)) (.inr (by simpa [copyRead_work] using hc (.inl hw))) (by simpa using hp) (by simpa using hr)
      (by simpa using hpl)
  · have hp := h.pending_of_busy (by simp [hw])
    by_cases h0 : (copyWrite s).work.count = 0#24
    · exact .of_decoded (.inr (.inr (by simp [h0]))) (.inl (by simp [h0])) (by simpa using hp) (copyWrite_ram_wf hr) (by simpa using hpl)
    · exact .of_decoded (.inl (by simp [h0])) (.inr h0) (by simpa using hp) (copyWrite_ram_wf hr) (by simpa using hpl)
  · exact .of_fetch rfl rfl (h.pending_of_busy (by simp [hw])) hr hpl
  · exact .of_idle rfl rfl hr hpl

/-- A whole record keeps the invariant: it ends at FETCH(0) or in IDLE (R88, R89). -/
theorem afterRecord_keeps_inv {s : State} (hs : s.walker = .fetch 0) (h : s.Inv) : (afterRecord s).Inv := by
  have hp := h.pending_of_busy (by simp [hs])
  have ⟨_, hr, hpl, _, _⟩ := h
  have hr (last : Bool) : (runRecord (recordDesc s.record) last (fetchRecord s)).ram.wf = true :=
    runRecord_ram_wf _ _ (by simpa using hr)
  rcases afterRecord_cases hs with ⟨-, e⟩ | ⟨-, e⟩ <;> rw [e]
  · exact .of_fetch rfl rfl (by simpa using hp) (hr false) (by simpa using hpl)
  · exact .of_idle rfl rfl (hr true) (by simpa using hpl)

/-- A port transaction at an IDLE engine keeps the invariant: it answers, or it starts at FETCH(0) with index 0 (R64, R75). -/
theorem exec_port_keeps_inv {i : Instr} {s t : State} (hi : i.form = .pt) (hw : s.walker = .idle) (h : s.Inv)
    (ht : exec i s = .next t) : t.Inv := by
  have hp := h.not_pending_of_idle hw
  have ⟨_, hr, hpl, _, _⟩ := h
  rcases exec_port_of_idle hi hw with ⟨r, e⟩ | ⟨a, e⟩ | ⟨v, e⟩ | ⟨v, -, e⟩ <;> obtain rfl := Host.Outcome.next.inj (e.symm.trans ht)
  · exact .of_idle hw hp hr hpl
  · exact .of_idle hw hp hr hpl
  · exact .of_idle hw hp hr hpl
  · exact .of_fetch rfl rfl rfl hr hpl

/-- An event keeps the invariant: unless it is a port transaction, the engine stays in IDLE (R106, R108). -/
theorem accept_keeps_inv {e : Event} {s t : State} (hw : s.walker = .idle) (h : s.Inv) (ht : accept e s = .next t) : t.Inv := by
  have hp := h.not_pending_of_idle hw
  have ⟨_, hr, hpl, _, _⟩ := h
  rcases accept_cases e s with ⟨w, ea⟩ | ⟨r, ea⟩ | ⟨_, _, r, ea⟩ | ⟨a, v, r, ea⟩ | ⟨-, ea⟩ | ⟨-, ea⟩
  · exact exec_port_keeps_inv (decodePT_form w) hw h (ea.symm.trans ht)
  all_goals obtain rfl := Host.Outcome.next.inj (ea.symm.trans ht)
  · exact .of_idle hw hp hr hpl
  · exact .of_idle hw hp hr hpl
  · exact .of_idle (by simpa using hw) (by simpa using hp) (busWrite_ram_wf a v hr) (by simpa using hpl)
  · exact .of_idle rfl rfl hr hpl
  · exact .of_idle rfl rfl hr hpl

/-- Settles O48: every kind of step (a wait, an event, a step of the engine, a whole record) keeps the invariant. -/
theorem stepKeepsTheInvariant : Obligations.StepKeepsTheInvariant := by
  intro s t h ht
  rcases step_cases s with ⟨-, -, e⟩ | ⟨ev, es, hw, -, e⟩ | ⟨-, -, e⟩ | ⟨hw, -, e⟩
  · exact Host.Outcome.next.inj (e.symm.trans ht) ▸ h
  · exact accept_keeps_inv (s := s.setInputs es) hw h (e.symm.trans ht)
  · exact Host.Outcome.next.inj (e.symm.trans ht) ▸ tick_keeps_inv h
  · exact Host.Outcome.next.inj (e.symm.trans ht) ▸ afterRecord_keeps_inv hw h

/-- Settles O49, by the case the walker is in. -/
theorem engineStepKeepsTheInvariant : Obligations.EngineStepKeepsTheInvariant := fun _ h => tick_keeps_inv h

/-- Settles O47: the engine is IDLE, the RAM is blank, and one RAM device is bound to every page. -/
theorem invariantHoldsAtReset : Obligations.InvariantHoldsAtReset := .of_idle rfl rfl rfl rfl

/-! ## What a step of a BUSY machine leaves alone -/

/-- Settles O12: a BUSY engine completes no port transaction, and only a BUSY walker executes a record. -/
theorem transactionHeldWhileBusyAndRecordWhileIdle : Obligations.TransactionHeldWhileBusyAndRecordWhileIdle := by
  refine ⟨fun i s hi hb => exec_port_of_busy hi hb, fun i s hi hw => ?_⟩
  have hb : s.busy = false := by simp [State.busy, hw]
  cases i with
  | xfer d => simp [exec, execXfer, hb]
  | xferLast d => simp [exec, execXferLast, hb]
  | _ => cases hi

/-- From `s` to `t` no event was taken, and the requester was answered only by the completion of the start write, in the return to IDLE
(R27, R107). -/
def HoldsRequester (s t : State) : Prop :=
  t.inputs = s.inputs ∧ t.clk = s.clk ∧ t.plat = s.plat ∧
  (t.busy = true ∧ t.replies = s.replies ∧ t.pending = s.pending ∨
   t.walker = .idle ∧ t.replies = .done :: s.replies ∧ t.pending = false)

theorem HoldsRequester.of_busy {s t : State} (hb : t.walker ≠ .idle) (hi : t.inputs = s.inputs) (hc : t.clk = s.clk)
    (hpl : t.plat = s.plat) (hr : t.replies = s.replies) (hp : t.pending = s.pending) : HoldsRequester s t :=
  ⟨hi, hc, hpl, .inl ⟨(busy_iff t).mpr hb, hr, hp⟩⟩

/-- Completion answers the start write and nothing else (R89). -/
theorem HoldsRequester.of_complete {s u : State} (hi : u.inputs = s.inputs) (hc : u.clk = s.clk)
    (hpl : u.plat = s.plat) (hr : u.replies = s.replies) : HoldsRequester s (complete u) :=
  ⟨hi, hc, hpl, .inr ⟨rfl, congrArg (Reply.done :: ·) hr, rfl⟩⟩

theorem tickFetch_holdsRequester (k : Fin 10) (s : State) : HoldsRequester s (tickFetch k s) := by
  rcases tickFetch_cases k s with ⟨h, e⟩ | ⟨-, e⟩
  · rw [e]; apply HoldsRequester.of_busy <;> simp
  · rcases decodeRecord_cases (fetchByte k s) with ⟨-, e'⟩ | ⟨-, e'⟩ <;> rw [e, e'] <;> apply HoldsRequester.of_busy <;> simp

theorem tick_holdsRequester {s : State} (hb : s.busy = true) : HoldsRequester s (tick s) := by
  rcases tick_cases s with ⟨hw, -⟩ | ⟨k, -, e⟩ | ⟨-, e⟩ | ⟨-, e⟩ | ⟨-, -, e⟩ | ⟨-, -, e⟩
  · exact absurd hw ((busy_iff s).mp hb)
  · rw [e]; exact tickFetch_holdsRequester k s
  · rw [e]; apply HoldsRequester.of_busy <;> simp
  · rw [e]; apply HoldsRequester.of_busy <;> simp; split <;> simp
  · rw [e]; exact .of_busy (by simp) rfl rfl rfl rfl rfl
  · rw [e]; exact .of_complete rfl rfl rfl rfl

theorem afterRecord_holdsRequester {s : State} (hs : s.walker = .fetch 0) : HoldsRequester s (afterRecord s) := by
  rcases afterRecord_cases hs with ⟨-, e⟩ | ⟨-, e⟩ <;> rw [e]
  · apply HoldsRequester.of_busy <;> simp
  · apply HoldsRequester.of_complete <;> simp

/-- Settles O13: a BUSY step is a step of the engine or a whole record, and neither takes an event. -/
theorem busyStepTakesNoEvent : Obligations.BusyStepTakesNoEvent := by
  intro s hb
  rcases step_cases s with ⟨hw, -, -⟩ | ⟨_, _, hw, -, -⟩ | ⟨-, -, e⟩ | ⟨hw, -, e⟩
  · exact absurd hw ((busy_iff s).mp hb)
  · exact absurd hw ((busy_iff s).mp hb)
  · exact ⟨_, e, tick_holdsRequester hb⟩
  · exact ⟨_, e, afterRecord_holdsRequester hw⟩

/-! ## The walker does not see `clk` -/

theorem masterRead_setClk (a : Addr) (s : State) (v : Byte) : masterRead a (s.setClk v) = (masterRead a s).setClk v := by
  unfold masterRead afterRead
  cases h : s.plat.slot a <;> simp [h] <;> rfl

theorem masterWrite_setClk (a : Addr) (b : Byte) (s : State) (v : Byte) :
    masterWrite a b (s.setClk v) = (masterWrite a b s).setClk v := by
  unfold masterWrite busWrite
  cases h : s.plat.slot a <;> simp [h] <;> rfl

theorem fetchByte_setClk (k : Fin 10) (s : State) (v : Byte) : fetchByte k (s.setClk v) = (fetchByte k s).setClk v := by
  simp only [fetchByte, State.setClk_descAddr, masterRead_setClk]; rfl

theorem fetchRecord_setClk (s : State) (v : Byte) : fetchRecord (s.setClk v) = (fetchRecord s).setClk v := by
  unfold fetchRecord
  induction Config.descSize with
  | zero => rfl
  | succ n ih => simp only [fetchBytes, ih, fetchByte_setClk]

theorem copyRead_setClk (s : State) (v : Byte) : copyRead (s.setClk v) = (copyRead s).setClk v := by
  simp only [copyRead, State.setClk_work, masterRead_setClk]; rfl

theorem copyWrite_setClk (s : State) (v : Byte) : copyWrite (s.setClk v) = (copyWrite s).setClk v := by
  simp only [copyWrite, State.setClk_work, masterWrite_setClk]; rfl

theorem copyBytes_setClk (n : Nat) (s : State) (v : Byte) : copyBytes n (s.setClk v) = (copyBytes n s).setClk v := by
  induction n generalizing s with
  | zero => rfl
  | succ n ih => simp only [copyBytes, copyByte, copyRead_setClk, copyWrite_setClk, ih]

theorem runRecord_setClk (d : Desc) (last : Bool) (s : State) (v : Byte) :
    runRecord d last (s.setClk v) = (runRecord d last s).setClk v := by
  unfold runRecord
  rw [show latch d last (s.setClk v) = (latch d last s).setClk v from rfl, copyBytes_setClk]; rfl

theorem tick_setClk (s : State) (v : Byte) : tick (s.setClk v) = (tick s).setClk v := by
  unfold tick
  cases h : s.walker with
  | idle => simp [h]
  | fetch k =>
    simp only [State.setClk_walker, h, tickFetch, fetchByte_setClk]
    split <;> rfl
  | copyRd => simp only [State.setClk_walker, h, tickCopyRd, copyRead_setClk]; rfl
  | copyWr => simp only [State.setClk_walker, h, tickCopyWr, copyWrite_setClk]; rfl
  | advance =>
    simp only [State.setClk_walker, h, tickAdvance]
    cases hl : s.work.last <;> simp [hl] <;> rfl

theorem record_setClk (s : State) (v : Byte) : (s.setClk v).record = s.record := by
  simp only [State.record, fetchRecord_setClk, State.setClk_work]

/-- A whole record as one equation: `is_last` chooses between completion and the next record (R88, R91, R92). -/
theorem afterRecord_of_fetch {s : State} (hs : s.walker = .fetch 0) : afterRecord s =
    if recordLast s.record then complete (runRecord (recordDesc s.record) true (fetchRecord s))
    else nextRecord (runRecord (recordDesc s.record) false (fetchRecord s)) := by
  rcases afterRecord_cases hs with ⟨hl, e⟩ | ⟨hl, e⟩ <;> simp [hl, e]

theorem afterRecord_setClk {s : State} (hs : s.walker = .fetch 0) (v : Byte) :
    afterRecord (s.setClk v) = (afterRecord s).setClk v := by
  rw [afterRecord_of_fetch hs, afterRecord_of_fetch (s := s.setClk v) hs]
  simp only [record_setClk, fetchRecord_setClk, runRecord_setClk]
  split <;> rfl

/-- Where no whole record is run, a BUSY step is one step of the engine (R81). -/
theorem step_eq_tick {s : State} (hb : s.busy = true) (hp : s.walker = .fetch 0 → s.pace = .byBusOperation) :
    step s = .next (tick s) := by
  by_cases hf : s.walker = .fetch 0
  · exact step_of_tick hb (hp hf)
  · exact step_inside_record hb hf

/-- At the pace of R79 a step at FETCH(0) is a whole record. -/
theorem step_eq_afterRecord {s : State} (hs : s.walker = .fetch 0) (hp : s.pace = .byRecord) : step s = .next (afterRecord s) := by
  rw [step_of_record hs hp, exec_record hs]

/-- Settles O44: a step of the engine and a whole record both commute with a change of `clk`. -/
theorem clkHasNoEffectOnATransfer : Obligations.ClkHasNoEffectOnATransfer := by
  intro s t v hb ht
  change step (s.setClk v) = .next (t.setClk v)
  rcases step_cases s with ⟨hw, -, -⟩ | ⟨_, _, hw, -, -⟩ | ⟨-, hp, e⟩ | ⟨hw, hp, e⟩
  · exact absurd hw ((busy_iff s).mp hb)
  · exact absurd hw ((busy_iff s).mp hb)
  · obtain rfl := Host.Outcome.next.inj (e.symm.trans ht)
    rw [step_eq_tick (s := s.setClk v) hb hp, tick_setClk]
  · obtain rfl := Host.Outcome.next.inj (e.symm.trans ht)
    rw [step_eq_afterRecord (s := s.setClk v) hw hp, afterRecord_setClk hw]

/-! ## Working registers are not read in IDLE and at FETCH(0) -/

theorem busWrite_setWork (a : Addr) (v : Byte) (s : State) (w : Work) :
    busWrite a v (s.setWork w) = (busWrite a v s).setWork w := by
  unfold busWrite
  cases h : s.plat.slot a <;> simp [h] <;> rfl

theorem afterRead_setWork (a : Addr) (s : State) (w : Work) : afterRead a (s.setWork w) = (afterRead a s).setWork w := by
  unfold afterRead
  cases h : s.plat.slot a with
  | unbound => simp only [State.setWork_plat, h]
  | ram => simp only [State.setWork_plat, h]
  | external dev => simp only [State.setWork_plat, h]; rfl

/-- From `s`, and from `s` with other working registers `w`, the meaning `f` goes on to states that differ in the working registers at most. -/
def IgnoresWork (f : State → Host.Outcome State Fault Refusal) (s : State) (w : Work) : Prop :=
  ∃ t w', f s = .next t ∧ f (s.setWork w) = .next (t.setWork w')

theorem portRead_ignoresWork {s : State} (v : Byte) (hs : s.walker = .idle) (w : Work) : IgnoresWork (portRead v) s w :=
  ⟨_, w, portRead_of_idle v hs, portRead_of_idle v hs⟩

theorem portWrite_ignoresWork {s : State} {f : State → State} (hf : ∀ w, f (s.setWork w) = (f s).setWork w)
    (hs : s.walker = .idle) (w : Work) : IgnoresWork (portWrite f) s w :=
  ⟨_, w, portWrite_of_idle f hs, by rw [portWrite_of_idle (s := s.setWork w) f hs, hf]; rfl⟩

/-- No port transaction reads a working register; a start sets `k` and keeps the others (R64, R75). -/
theorem exec_port_ignoresWork {i : Instr} {s : State} (hi : i.form = .pt) (hs : s.walker = .idle) (w : Work) :
    IgnoresWork (exec i) s w := by
  cases i with
  | rdDesc0 => exact portRead_ignoresWork _ hs w
  | rdDesc1 => exact portRead_ignoresWork _ hs w
  | rdDesc2 => exact portRead_ignoresWork _ hs w
  | rdClk => exact portRead_ignoresWork _ hs w
  | rdCtrl => exact portRead_ignoresWork _ hs w
  | rdNone5 => exact portRead_ignoresWork _ hs w
  | rdNone6 => exact portRead_ignoresWork _ hs w
  | rdNone7 => exact portRead_ignoresWork _ hs w
  | wrDesc0 v => exact portWrite_ignoresWork (fun _ => rfl) hs w
  | wrDesc1 v => exact portWrite_ignoresWork (fun _ => rfl) hs w
  | wrDesc2 v => exact portWrite_ignoresWork (fun _ => rfl) hs w
  | wrClk v => exact portWrite_ignoresWork (fun _ => rfl) hs w
  | wrCtrlStart v => exact ⟨startTransfer s, { w with k := 0#4 }, by simp [exec, execWrCtrlStart, hs], by simp [exec, execWrCtrlStart, hs]; rfl⟩
  | wrCtrlNop v => exact portWrite_ignoresWork (fun _ => rfl) hs w
  | wrNone5 v => exact portWrite_ignoresWork (fun _ => rfl) hs w
  | wrNone6 v => exact portWrite_ignoresWork (fun _ => rfl) hs w
  | wrNone7 v => exact portWrite_ignoresWork (fun _ => rfl) hs w
  | xfer d => cases hi
  | xferLast d => cases hi

theorem ioRead_ignoresWork (port : Byte) {s : State} (hs : s.walker = .idle) (w : Work) : IgnoresWork (ioRead port) s w := by
  unfold IgnoresWork ioRead
  rw [State.setWork_plat]
  cases s.plat.route port with
  | engine off => exact exec_port_ignoresWork (decodePT_form _) hs w
  | external dev => exact ⟨_, w, rfl, rfl⟩
  | unbound => exact ⟨_, w, rfl, rfl⟩

theorem ioWrite_ignoresWork (port v : Byte) {s : State} (hs : s.walker = .idle) (w : Work) : IgnoresWork (ioWrite port v) s w := by
  unfold IgnoresWork ioWrite
  rw [State.setWork_plat]
  cases s.plat.route port with
  | engine off => exact exec_port_ignoresWork (decodePT_form _) hs w
  | external dev => exact ⟨_, w, rfl, rfl⟩
  | unbound => exact ⟨_, w, rfl, rfl⟩

/-- No event reads a working register (R108); init and reset draw them anew (R23). -/
theorem accept_ignoresWork (e : Event) {s : State} (hs : s.walker = .idle) (w : Work) : IgnoresWork (accept e) s w := by
  cases e with
  | pt x => exact exec_port_ignoresWork (decodePT_form x) hs w
  | ioRead port => exact ioRead_ignoresWork port hs w
  | ioWrite port v => exact ioWrite_ignoresWork port v hs w
  | memRead a => exact ⟨_, w, rfl, by simp only [accept, requesterRead, afterRead_setWork, busValue_setWork]; rfl⟩
  | memWrite a v => exact ⟨_, w, rfl, by simp only [accept, requesterWrite, busWrite_setWork]; rfl⟩
  | init => exact ⟨initEvent s, Work.free s.draws, rfl, rfl⟩
  | reset => exact ⟨resetEvent s, Work.free s.draws, rfl, rfl⟩

/-- A fetch read writes its own byte of `desc_buf` and the index, and reads no working register (R83). -/
theorem fetchByte_setWork (k : Fin 10) (s : State) (w : Work) : fetchByte k (s.setWork w) = (fetchByte k s).setWork
    { w with descBuf := w.descBuf.set k (busValue (s.descAddr + BitVec.ofNat 24 k.val) s), k := nextIndex k } := by
  simp only [fetchByte, State.setWork_descAddr, masterRead_setWork, busValue_setWork, State.setWork_work]; rfl

theorem tick_setWork_of_fetch {s : State} (hs : s.walker = .fetch 0) (w : Work) : ∃ w', tick (s.setWork w) = (tick s).setWork w' := by
  have ht (u : State) (hu : u.walker = .fetch 0) : tick u = (fetchByte 0 u).setWalker (.fetch 1) := by simp [tick, hu, tickFetch]
  rw [ht s hs, ht (s.setWork w) hs, fetchByte_setWork]
  exact ⟨_, rfl⟩

/-- The first `n` fetch reads leave the same first `n` bytes in `desc_buf`, whatever the working registers held. -/
theorem fetchBytes_setWork (s : State) (w : Work) : ∀ n, n ≤ 10 → ∃ w', fetchBytes n (s.setWork w) = (fetchBytes n s).setWork w' ∧
    ∀ i (h : i < 10), i < n → w'.descBuf[i] = (fetchBytes n s).work.descBuf[i]
  | 0, _ => ⟨w, rfl, fun _ _ h => absurd h (Nat.not_lt_zero _)⟩
  | n + 1, hn => by
    obtain ⟨w', e, hw⟩ := fetchBytes_setWork s w n (by omega)
    have hv : (Fin.ofNat 10 n).val = n := Nat.mod_eq_of_lt (by omega)
    refine ⟨_, by rw [fetchBytes, e, fetchByte_setWork]; rfl, fun i h hi => ?_⟩
    simp only [fetchBytes, fetchByte_eq, Vector.getElem_set]
    split
    · rfl
    · exact hw i h (by omega)

/-- The record fetched, and all else the fetch leaves, does not depend on the working registers (R79, R83). -/
theorem fetchRecord_setWork (s : State) (w : Work) :
    (s.setWork w).record = s.record ∧ ∃ w', fetchRecord (s.setWork w) = (fetchRecord s).setWork w' := by
  obtain ⟨w', e, hw⟩ := fetchBytes_setWork s w 10 (Nat.le_refl 10)
  refine ⟨?_, w', e⟩
  simp only [State.record, fetchRecord, Config.descSize, e, State.setWork_work]
  exact Vector.ext fun i h => hw i h h

/-- Running a record overwrites every working register it reads (R84). -/
theorem runRecord_setWork (d : Desc) (last : Bool) (s : State) (w : Work) :
    ∃ w', runRecord d last (s.setWork w) = (runRecord d last s).setWork w' := by
  obtain ⟨w₁, e₁⟩ := runRecord_eq_copyLoop d last (s.setWork w)
  obtain ⟨w₂, e₂⟩ := runRecord_eq_copyLoop d last s
  exact ⟨w₁, by rw [e₁, e₂, copyLoop_setWork]; rfl⟩

theorem afterRecord_setWork {s : State} (hs : s.walker = .fetch 0) (w : Work) :
    ∃ w', afterRecord (s.setWork w) = (afterRecord s).setWork w' := by
  obtain ⟨hrec, w₁, hf⟩ := fetchRecord_setWork s w
  rw [afterRecord_of_fetch hs, afterRecord_of_fetch (s := s.setWork w) hs, hrec, hf]
  split
  · obtain ⟨w₂, e⟩ := runRecord_setWork (recordDesc s.record) true (fetchRecord s) w₁
    exact ⟨_, by rw [e]; rfl⟩
  · obtain ⟨w₂, e⟩ := runRecord_setWork (recordDesc s.record) false (fetchRecord s) w₁
    exact ⟨_, by rw [e]; rfl⟩

/-- A chain that has completed goes no further (R89). -/
theorem walk_of_idle (n : Nat) {s : State} (hs : s.walker = .idle) : walk n s = s := by
  induction n with
  | zero => rfl
  | succ n ih => rw [walk, show afterRecord s = s by simp [afterRecord, hs], ih]

/-- After a record the walker is at the next one, or in IDLE (R88, R89). -/
theorem afterRecord_walker {s : State} (hs : s.walker = .fetch 0) :
    (afterRecord s).walker = .fetch 0 ∨ (afterRecord s).walker = .idle := by
  rcases afterRecord_cases hs with ⟨-, e⟩ | ⟨-, e⟩ <;> simp [e]

theorem walk_setWork (n : Nat) {s : State} (hs : s.walker = .fetch 0) (w : Work) :
    ∃ w', walk n (s.setWork w) = (walk n s).setWork w' := by
  induction n generalizing s w with
  | zero => exact ⟨w, rfl⟩
  | succ n ih =>
    obtain ⟨w₁, e⟩ := afterRecord_setWork hs w
    rw [walk, walk, e]
    rcases afterRecord_walker hs with hf | hi
    · exact ih hf w₁
    · exact ⟨w₁, by rw [walk_of_idle n hi, walk_of_idle n (s := (afterRecord s).setWork w₁) hi]⟩

/-- A step in IDLE or at FETCH(0) reads no working register (R23). -/
theorem step_ignoresWork {s : State} (hs : s.walker = .idle ∨ s.walker = .fetch 0) (w : Work) : IgnoresWork step s w := by
  rcases step_cases s with ⟨hw, hin, e⟩ | ⟨ev, es, hw, hin, e⟩ | ⟨hb, hp, e⟩ | ⟨hw, hp, e⟩
  · exact ⟨s, w, e, step_of_waiting (s := s.setWork w) hw hin⟩
  · obtain ⟨t, w', h, h'⟩ := accept_ignoresWork ev (s := s.setInputs es) hw w
    exact ⟨t, w', e.trans h, (step_of_event (s := s.setWork w) hw hin).trans h'⟩
  · have hw : s.walker = .fetch 0 := hs.resolve_left ((busy_iff s).mp hb)
    obtain ⟨w', h⟩ := tick_setWork_of_fetch hw w
    exact ⟨_, w', e, by rw [step_eq_tick (s := s.setWork w) hb hp, h]⟩
  · obtain ⟨w', h⟩ := afterRecord_setWork hw w
    exact ⟨_, w', e, by rw [step_eq_afterRecord (s := s.setWork w) hw hp, h]⟩

/-- Settles O45: the step by its kind, the chain by induction on its records. -/
theorem idleWorkingRegistersAreNeverRead : Obligations.IdleWorkingRegistersAreNeverRead := by
  refine ⟨fun s t w hs ht => ?_, fun n s w hs => walk_setWork n hs w⟩
  obtain ⟨u, w', h, h'⟩ := step_ignoresWork hs w
  obtain rfl := Host.Outcome.next.inj (h.symm.trans ht)
  exact ⟨w', h'⟩

end Sys2Proof.Machine

/-! PROOFS. The memory space and the I/O ports (20_memory.md): how an address and a port resolve, what one access does by the kind of its
page or port, how the machine is assembled, and a record that writes over the next one. -/

namespace Sys2Proof.Machine

/-! ## An address resolves by its low 22 bits -/

theorem pageOf_toNat (a : Addr) : (pageOf a).toNat = a.toNat % 2 ^ 22 / 16384 := by
  rw [← physOf_toNat, pageOf, BitVec.extractLsb'_toNat, Nat.shiftRight_eq_div_pow]
  have := (physOf a).isLt
  omega

theorem offsetOf_toNat (a : Addr) : (offsetOf a).toNat = a.toNat % 16384 := by
  rw [offsetOf_eq, BitVec.extractLsb'_toNat]; rfl

/-- The slot depends on the physical address alone (R37). -/
theorem Platform.slot_congr (p : Platform) {a b : Addr} (h : physOf a = physOf b) : p.slot a = p.slot b := by
  simp only [Platform.slot, pageOf, h]

theorem busValue_congr (s : State) {a b : Addr} (h : physOf a = physOf b) : busValue a s = busValue b s := by
  simp only [busValue, offsetOf, s.plat.slot_congr h, h]

theorem busWrite_congr (s : State) (v : Byte) {a b : Addr} (h : physOf a = physOf b) : busWrite a v s = busWrite b v s := by
  simp only [busWrite, offsetOf, s.plat.slot_congr h, h]

/-- Settles O54: page, offset and physical address are slices of the low 22 bits, and every access goes through them. -/
theorem addressesResolveModuloFourMiB : Obligations.AddressesResolveModuloFourMiB := by
  refine ⟨fun a => ⟨physOf_toNat a, pageOf_toNat a, offsetOf_toNat a⟩, fun s a b v hab => ?_⟩
  have h : physOf a = physOf b := BitVec.eq_of_toNat_eq (by rw [physOf_toNat, physOf_toNat, hab])
  exact ⟨s.plat.slot_congr h, busValue_congr s h, congrArg State.ram (busWrite_congr s v h)⟩

/-! ## One access, by what the page is -/

/-- A page no binding covers is unbound (R39). -/
theorem Platform.slot_eq_unbound {p : Platform} {a : Addr} (h : ∀ b ∈ p.memMap, b.covers (pageOf a).toNat = false) :
    p.slot a = .unbound := by
  have : p.entry (pageOf a).toNat = none := List.find?_eq_none.mpr (by simpa using h)
  simp only [Platform.slot, this]

theorem busValue_of_unbound {a : Addr} {s : State} (h : s.plat.slot a = .unbound) : busValue a s = s.plat.idleMem := by
  simp [busValue, h]

theorem afterRead_of_unbound {a : Addr} {s : State} (h : s.plat.slot a = .unbound) : afterRead a s = s := by
  simp [afterRead, h]

theorem busWrite_of_unbound {a : Addr} {s : State} (v : Byte) (h : s.plat.slot a = .unbound) : busWrite a v s = s := by
  simp [busWrite, h]

theorem busValue_of_external {a : Addr} {dev : Nat} {s : State} (h : s.plat.slot a = .external dev) :
    busValue a s = Config.deviceByte dev (a.extractLsb' 0 14) (s.devicePast dev) := by
  simp [busValue, h, offsetOf_eq]

theorem afterRead_of_external {a : Addr} {dev : Nat} {s : State} (h : s.plat.slot a = .external dev) :
    afterRead a s = s.logDevice dev (.read (a.extractLsb' 0 14)) := by
  simp [afterRead, h, offsetOf_eq]

theorem busWrite_of_external {a : Addr} {dev : Nat} {s : State} (v : Byte) (h : s.plat.slot a = .external dev) :
    busWrite a v s = s.logDevice dev (.write (a.extractLsb' 0 14) v) := by
  simp [busWrite, h, offsetOf_eq]

/-- Settles O55: the page is unbound, and each access is the rule for an unbound page. -/
theorem unboundPageReadsIdleAndIgnoresWrites : Obligations.UnboundPageReadsIdleAndIgnoresWrites := by
  intro s a v h
  have hs : s.plat.slot a = .unbound := Platform.slot_eq_unbound (by simpa only [pageOf_toNat] using h)
  refine ⟨busValue_of_unbound hs, ?_, ?_⟩
  · rw [masterRead, afterRead_of_unbound hs, busValue_of_unbound hs]; rfl
  · rw [masterWrite, busWrite_of_unbound v hs]; rfl

/-- A read of a page that is no external device's reaches no device (R38, R39). -/
theorem afterRead_devLog_of_not_external {a : Addr} {s : State} (h : ∀ dev, s.plat.slot a ≠ .external dev) :
    (afterRead a s).devLog = s.devLog := by
  rcases afterRead_eq a s with ⟨-, e⟩ | ⟨dev, hd, -⟩
  · rw [e]
  · exact absurd hd (h dev)

/-- A write to a page that is no external device's reaches no device (R38, R39). -/
theorem busWrite_devLog_of_not_external {a : Addr} (v : Byte) {s : State} (h : ∀ dev, s.plat.slot a ≠ .external dev) :
    (busWrite a v s).devLog = s.devLog := by
  rcases busWrite_eq a v s with ⟨-, e⟩ | ⟨-, e⟩ | ⟨dev, hd, -⟩
  · rw [e]; rfl
  · rw [e]
  · exact absurd hd (h dev)

/-- Settles O57: at an external device's page by the rules for such a page, at any other by the frame of the device log. -/
theorem deviceGetsEachAccessOnce : Obligations.DeviceGetsEachAccessOnce := by
  refine ⟨fun s a v dev h => ⟨?_, ?_⟩, fun s a v h => ⟨?_, ?_⟩⟩
  · rw [masterRead, afterRead_of_external h, busValue_of_external h]; rfl
  · rw [masterWrite, busWrite_of_external v h]; rfl
  · simpa [masterRead] using afterRead_devLog_of_not_external h
  · simpa [masterWrite] using busWrite_devLog_of_not_external v h

/-- What a device has got is a function of the device log (R45). -/
theorem State.devicePast_congr {s t : State} (h : s.devLog = t.devLog) (dev : Nat) : s.devicePast dev = t.devicePast dev := by
  rw [State.devicePast, h]; rfl

/-- Settles O58: the answer is the contract's after the device's part of the log, which the one access joins or not. -/
theorem deviceAnswersAfterEveryEarlierAccess : Obligations.DeviceAnswersAfterEveryEarlierAccess := by
  intro s t b dev dev' op hb hlog
  have hpast : t.devicePast dev' = (s.logDevice dev op).devicePast dev' := State.devicePast_congr hlog dev'
  rw [busValue_of_external hb, hpast, devicePast_logDevice]
  by_cases h : dev' = dev
  · simp [h]
  · simp [h, Ne.symm h]

/-! ## The requester's accesses -/

/-- After a write to a RAM page the byte under that physical address is the one written, every other is as it was (R44). -/
theorem peek_requesterWrite_of_ram {a : Addr} {v : Byte} {s : State} (h : s.plat.slot a = .ram) (hw : s.ram.wf = true) (b : Addr) :
    (requesterWrite a v s).peek b = if physOf b = physOf a then v else s.peek b := by
  have hp : (requesterWrite a v s).peek b = (masterWrite a v s).peek b := rfl
  rw [hp, peek_masterWrite_of_ram h hw]
  simp only [eq_comm]

/-- Settles O19: the event is one bus access, which the kind of the page settles. -/
theorem requesterSharesTheMemory : Obligations.RequesterSharesTheMemory := by
  intro s a v es hidle
  refine ⟨fun hwf hram => ⟨fun hin => ?_, fun hin => ?_⟩, fun dev hdev => ⟨fun hin => ?_, fun hin => ?_⟩⟩ <;>
    rw [step_of_event hidle hin]
  · have hslot : (s.setInputs es).plat.slot a = .ram := (s.isRam_iff a).mp hram
    refine ⟨_, rfl, ?_, peek_requesterWrite_of_ram hslot hwf⟩
    rw [requesterWrite, busWrite_of_ram hslot]; rfl
  · have hslot : (s.setInputs es).plat.slot a = .ram := (s.isRam_iff a).mp hram
    rw [accept, requesterRead, afterRead_of_ram hslot, busValue_of_ram hslot]; rfl
  · rw [accept, requesterWrite, busWrite_of_external (s := s.setInputs es) v hdev]; rfl
  · rw [accept, requesterRead, afterRead_of_external (s := s.setInputs es) hdev, busValue_of_external (s := s.setInputs es) hdev]; rfl

/-! ## I/O ports -/

/-- Outside the engine's five a port nothing is bound to is unbound (R40, R42). -/
theorem Platform.route_eq_unbound {p : Platform} {q : Byte} (h : q.toNat < p.ioBase.val ∨ p.ioBase.val + 4 < q.toNat)
    (hq : ∀ b ∈ p.ioMap, b.port ≠ q) : p.route q = .unbound := by
  have hf : p.ioMap.find? (fun b => b.port = q) = none := List.find?_eq_none.mpr (by simpa using hq)
  rw [Platform.route, if_neg (by omega), hf]

/-- Outside the engine's five a port goes to the first device bound to it (R40, R42). -/
theorem Platform.route_eq_external {p : Platform} {q : Byte} {b : IoBinding} (h : q.toNat < p.ioBase.val ∨ p.ioBase.val + 4 < q.toNat)
    (hb : p.ioMap.find? (fun b => b.port = q) = some b) : p.route q = .external b.device.id := by
  rw [Platform.route, if_neg (by omega), hb]

theorem ioRead_of_engine {p : Byte} {off : BitVec 3} {s : State} (h : s.plat.route p = .engine off) :
    ioRead p s = exec (decodePT (0#1 ++ off ++ 0x00#8)) s := by
  simp only [ioRead, h, ptWord]

theorem ioWrite_of_engine {p : Byte} {off : BitVec 3} (v : Byte) {s : State} (h : s.plat.route p = .engine off) :
    ioWrite p v s = exec (decodePT (1#1 ++ off ++ v)) s := by
  simp only [ioWrite, h, ptWord]

theorem ioRead_of_unbound {p : Byte} {s : State} (h : s.plat.route p = .unbound) :
    ioRead p s = .next (s.reply (.data s.plat.idleIo)) := by
  simp only [ioRead, h]

theorem ioWrite_of_unbound {p : Byte} (v : Byte) {s : State} (h : s.plat.route p = .unbound) :
    ioWrite p v s = .next (s.reply .done) := by
  simp only [ioWrite, h]

theorem ioRead_of_external {p : Byte} {dev : Nat} {s : State} (h : s.plat.route p = .external dev) :
    ioRead p s = .next ((s.logDevice dev (.portRead p)).reply (.data (Config.portByte dev p (s.devicePast dev)))) := by
  simp only [ioRead, h]

theorem ioWrite_of_external {p : Byte} {dev : Nat} (v : Byte) {s : State} (h : s.plat.route p = .external dev) :
    ioWrite p v s = .next ((s.logDevice dev (.portWrite p v)).reply .done) := by
  simp only [ioWrite, h]

/-- Settles O18: where the port is routed decides what the access is, and each of the three routes has its rule. -/
theorem ioPortsRouteByBase : Obligations.IoPortsRouteByBase := by
  intro s p v es hidle
  refine ⟨fun off hoff hp => ?_, fun hout hfree => ?_, fun d hout hbound => ?_⟩
  · have hr : (s.setInputs es).plat.route p = .engine off := Platform.route_eq_engine_iff.mpr ⟨hoff, hp⟩
    exact ⟨fun hin => (step_of_event hidle hin).trans (ioWrite_of_engine v hr),
      fun hin => (step_of_event hidle hin).trans (ioRead_of_engine hr)⟩
  · have hr : (s.setInputs es).plat.route p = .unbound := Platform.route_eq_unbound hout hfree
    exact ⟨fun hin => (step_of_event hidle hin).trans (ioWrite_of_unbound v hr),
      fun hin => (step_of_event hidle hin).trans (ioRead_of_unbound hr)⟩
  · have hr : (s.setInputs es).plat.route p = .external d.id := Platform.route_eq_external hout hbound
    exact ⟨fun hin => (step_of_event hidle hin).trans (ioWrite_of_external v hr),
      fun hin => (step_of_event hidle hin).trans (ioRead_of_external hr)⟩

/-! ## Assembling the machine -/

/-- What a correctly assembled machine is, rule by rule (R41, R105). -/
theorem Platform.wf_iff (p : Platform) : p.wf = true ↔
    p.memMap.all MemBinding.inRange = true ∧ allApart p.memMap = true ∧ (∀ b ∈ p.ioMap, p.isEnginePort b.port = false) ∧
    (p.ioMap.map (·.port)).Nodup ∧ fewDevices p.bound = true ∧ sameKinds p.bound = true := by
  simp only [Platform.wf, Bool.and_eq_true, decide_eq_true_eq, and_assoc,
    List.all_eq_true (p := fun b : IoBinding => !p.isEnginePort b.port), Bool.not_eq_true']

/-- The number of device instances does not depend on the order they are listed in. -/
theorem fewDevices_perm {ds es : List Device} (h : ds.Perm es) : fewDevices ds = fewDevices es := by
  rw [fewDevices, fewDevices, distinctIds, distinctIds, (h.map _).dedup.length_eq]

theorem sameKinds_perm {ds es : List Device} (h : ds.Perm es) : sameKinds ds = sameKinds es := by
  simp only [sameKinds, h.all_eq]

/-- What an accepted memory binding passed, and the machine it leaves (R41, decision D10). -/
theorem Platform.bindMem_eq_ok {p q : Platform} {base size : Nat} {d : Device} (h : p.bindMem base size d = .ok q) :
    base % 16384 = 0 ∧ size % 16384 = 0 ∧ MemBinding.inRange ⟨base / 16384, size / 16384, d⟩ = true ∧
    p.memMap.all (MemBinding.apart ⟨base / 16384, size / 16384, d⟩ ·) = true ∧
    fewDevices (d :: p.bound) = true ∧ sameKinds (d :: p.bound) = true ∧
    q = { p with memMap := ⟨base / 16384, size / 16384, d⟩ :: p.memMap } := by
  simp only [Platform.bindMem] at h
  iterate 5 (split at h; · cases h)
  rename_i halign hrange hapart hfew hkinds
  simp only [Bool.not_eq_true', Bool.not_eq_false, not_or, not_not] at halign hrange hapart hfew hkinds
  exact ⟨halign.1, halign.2, hrange, hapart, hfew, hkinds, (Except.ok.inj h).symm⟩

/-- What an accepted port binding passed, and the machine it leaves (R41, R42). -/
theorem Platform.bindPort_eq_ok {p q : Platform} {port : Byte} {d : Device} (h : p.bindPort port d = .ok q) :
    p.isEnginePort port = false ∧ (∀ b ∈ p.ioMap, b.port ≠ port) ∧
    fewDevices (d :: p.bound) = true ∧ sameKinds (d :: p.bound) = true ∧ q = { p with ioMap := ⟨port, d⟩ :: p.ioMap } := by
  simp only [Platform.bindPort] at h
  iterate 3 (split at h; · cases h)
  rename_i hslot hfew hkinds
  simp only [Bool.not_eq_true', Bool.not_eq_false] at hfew hkinds
  obtain ⟨heng, hfree⟩ : p.isEnginePort port = false ∧ ∀ b ∈ p.ioMap, b.port ≠ port := by simpa using hslot
  exact ⟨heng, hfree, hfew, hkinds, (Except.ok.inj h).symm⟩

/-- A port is one of the engine's five exactly when it is in their range (R42). -/
theorem Platform.isEnginePort_eq_false_iff {p : Platform} {q : Byte} :
    p.isEnginePort q = false ↔ q.toNat < p.ioBase.val ∨ p.ioBase.val + 4 < q.toNat := by
  simp only [Platform.isEnginePort, Bool.and_eq_false_iff, decide_eq_false_iff_not]
  omega

theorem Platform.bindMem_keeps_wf {p q : Platform} {base size : Nat} {d : Device} (hp : p.wf = true)
    (h : p.bindMem base size d = .ok q) : q.wf = true := by
  obtain ⟨-, -, hin, hapart, hfew, hkinds, rfl⟩ := Platform.bindMem_eq_ok h
  obtain ⟨hr, ha, he, hn, -, -⟩ := p.wf_iff.mp hp
  exact (Platform.wf_iff _).mpr ⟨by simp [hin, hr], by simp only [allApart, hapart, ha, Bool.and_self], he, hn, hfew, hkinds⟩

theorem Platform.bindPort_keeps_wf {p q : Platform} {port : Byte} {d : Device} (hp : p.wf = true)
    (h : p.bindPort port d = .ok q) : q.wf = true := by
  obtain ⟨heng, hfree, hfew, hkinds, rfl⟩ := Platform.bindPort_eq_ok h
  obtain ⟨hr, ha, he, hn, -, -⟩ := p.wf_iff.mp hp
  have hperm : ({ p with ioMap := ⟨port, d⟩ :: p.ioMap } : Platform).bound.Perm (d :: p.bound) := List.perm_middle
  refine (Platform.wf_iff _).mpr ⟨hr, ha, ?_, ?_, (fewDevices_perm hperm).trans hfew, (sameKinds_perm hperm).trans hkinds⟩
  · exact List.forall_mem_cons.mpr ⟨heng, he⟩
  · exact List.nodup_cons.mpr ⟨by simpa using hfree, hn⟩

/-- Of whole pages, the bytes `base` to `base + size` cover just the pages between (R36). -/
theorem covers_of_aligned {base size : Nat} (hb : base % 16384 = 0) (hs : size % 16384 = 0) (d : Device) (page : Nat) :
    MemBinding.covers ⟨base / 16384, size / 16384, d⟩ page = true ↔ base / 16384 ≤ page ∧ page < (base + size) / 16384 := by
  simp only [MemBinding.covers, Bool.and_eq_true, decide_eq_true_eq]
  omega

/-- The pages an accepted binding covers are bound to its device, every other page as before (R36, R41). -/
theorem Platform.bindMem_entry {p q : Platform} {base size : Nat} {d : Device} (h : p.bindMem base size d = .ok q) (page : Nat) :
    q.entry page = if base / 16384 ≤ page ∧ page < (base + size) / 16384
      then some ⟨base / 16384, size / 16384, d⟩ else p.entry page := by
  obtain ⟨hb, hs, -, -, -, -, rfl⟩ := Platform.bindMem_eq_ok h
  simp only [Platform.entry, List.find?_cons, ← covers_of_aligned hb hs d page]
  cases MemBinding.covers ⟨base / 16384, size / 16384, d⟩ page <;> rfl

theorem Platform.bindPort_route_same {p q : Platform} {port : Byte} {d : Device} (h : p.bindPort port d = .ok q) :
    q.route port = .external d.id := by
  obtain ⟨heng, -, -, -, rfl⟩ := Platform.bindPort_eq_ok h
  exact Platform.route_eq_external (b := ⟨port, d⟩) (Platform.isEnginePort_eq_false_iff.mp heng) (by simp)

theorem Platform.bindPort_route_other {p q : Platform} {port r : Byte} {d : Device} (h : p.bindPort port d = .ok q) (hr : r ≠ port) :
    q.route r = p.route r := by
  obtain ⟨-, -, -, -, rfl⟩ := Platform.bindPort_eq_ok h
  simp only [Platform.route, List.find?_cons, hr.symm, decide_false]

/-- The entry of a page is a binding that covers it. -/
theorem Platform.entry_eq_some {p : Platform} {page : Nat} {b : MemBinding} (h : p.entry page = some b) :
    b ∈ p.memMap ∧ b.covers page = true := by
  unfold Platform.entry at h
  exact ⟨List.mem_of_find?_eq_some h, List.find?_some (p := fun c : MemBinding => c.covers page) h⟩

/-- Two bindings that cover one page are not apart. -/
theorem apart_eq_false_of_covers {b c : MemBinding} {page : Nat} (hb : b.covers page = true) (hc : c.covers page = true) :
    b.apart c = false := by
  simp only [MemBinding.covers, MemBinding.apart, Bool.and_eq_true, decide_eq_true_eq, Bool.or_eq_false_iff,
    decide_eq_false_iff_not] at *
  omega

/-- A region of whole pages over a page already bound is rejected (R41, decision D10). -/
theorem Platform.bindMem_overlap {p : Platform} {base size page : Nat} {d : Device} (hlo : base / 16384 ≤ page)
    (hhi : page < (base + size) / 16384) (hb : base % 16384 = 0) (hs : size % 16384 = 0) (hmem : base + size ≤ 2 ^ 22)
    (hbound : (p.entry page).isSome) : p.bindMem base size d = .error .overlap := by
  obtain ⟨c, hc⟩ := Option.isSome_iff_exists.mp hbound
  obtain ⟨hmap, hcovers⟩ := Platform.entry_eq_some hc
  have hrange : MemBinding.inRange ⟨base / 16384, size / 16384, d⟩ = true := by
    have hpages : Config.numPages = 256 := rfl
    simp only [MemBinding.inRange, Bool.and_eq_true, decide_eq_true_eq]
    omega
  have hclash : MemBinding.apart ⟨base / 16384, size / 16384, d⟩ c = false :=
    apart_eq_false_of_covers ((covers_of_aligned hb hs d page).mpr ⟨hlo, hhi⟩) hcovers
  have hall : p.memMap.all (MemBinding.apart ⟨base / 16384, size / 16384, d⟩ ·) = false :=
    List.all_eq_false.mpr ⟨c, hmap, by simp [hclash]⟩
  simp only [Platform.bindMem, Config.pageSize, hb, hs, hrange, hall]
  rfl

/-- Settles O56: an accepted binding passed every check of `Platform.wf`; one over a bound page fails the overlap check. -/
theorem bindingsKeepTheMachineAssembled : Obligations.BindingsKeepTheMachineAssembled := by
  refine ⟨fun p q base size d hp h => ?_, fun p q port d hp h => ?_, fun p base size page d => Platform.bindMem_overlap⟩
  · obtain ⟨hb, hs, -⟩ := Platform.bindMem_eq_ok h
    exact ⟨Platform.bindMem_keeps_wf hp h, hb, hs, fun page _ => Platform.bindMem_entry h page⟩
  · exact ⟨Platform.bindPort_keeps_wf hp h, Platform.bindPort_route_same h, fun r hr => Platform.bindPort_route_other h hr⟩

/-! ## A record is 11 + 2n steps of the engine -/

theorem ticks_add (m n : Nat) (s : State) : ticks (m + n) s = ticks n (ticks m s) := by
  induction m generalizing s with
  | zero => rw [Nat.zero_add]; rfl
  | succ m ih => rw [Nat.succ_add, ticks, ih]; rfl

theorem ticks_succ (n : Nat) (s : State) : ticks (n + 1) s = tick (ticks n s) := ticks_add n 1 s

/-- The first fetch reads of a record, one a step (R83). -/
theorem ticks_of_fetch {s : State} (hs : s.walker = .fetch 0) (n : Nat) (hn : n < 10) :
    ticks n s = (fetchBytes n s).setWalker (.fetch ⟨n, hn⟩) := by
  induction n with
  | zero => change s = s.setWalker (.fetch 0); rw [← hs]; rfl
  | succ n ih =>
    have hk : Fin.ofNat 10 n = ⟨n, by omega⟩ := Fin.ext (Nat.mod_eq_of_lt (by omega))
    rw [ticks_succ, ih (by omega), tick, State.setWalker_walker, fetchBytes, hk]
    rcases tickFetch_cases ⟨n, by omega⟩ ((fetchBytes n s).setWalker (.fetch ⟨n, by omega⟩)) with ⟨_, e⟩ | ⟨h9, -⟩
    · dsimp only
      rw [e, fetchByte_setWalker]; rfl
    · have hn9 : n = 9 := congrArg Fin.val h9
      omega

/-- The tenth fetch step decodes the record, whatever state the walker's field names (R84). -/
theorem tickFetch_nine_setWalker (s : State) (w : Walker) : tickFetch 9 (s.setWalker w) = decodeRecord (fetchByte 9 s) := by
  rcases tickFetch_cases 9 (s.setWalker w) with ⟨h, -⟩ | ⟨-, e⟩
  · exact absurd h (by decide)
  · rw [e, fetchByte_setWalker]; rfl

/-- Ten steps fetch a record and decode it (R83, R84). -/
theorem ticks_ten {s : State} (hs : s.walker = .fetch 0) : ticks 10 s = decodeRecord (fetchRecord s) := by
  rw [ticks_succ, ticks_of_fetch hs 9 (by decide), tick, State.setWalker_walker]
  exact tickFetch_nine_setWalker (fetchBytes 9 s) _

theorem copyByte_setWalker (s : State) (w : Walker) : copyByte (s.setWalker w) = (copyByte s).setWalker w := by
  rw [copyByte, copyRead_setWalker, copyWrite_setWalker]; rfl

theorem copyBytes_setWalker (n : Nat) (s : State) (w : Walker) : copyBytes n (s.setWalker w) = (copyBytes n s).setWalker w := by
  induction n generalizing s with
  | zero => rfl
  | succ n ih => rw [copyBytes, copyByte_setWalker, ih]; rfl

/-- Two steps copy a byte, and go to ADVANCE after the last one (R86, R87). -/
theorem ticks_two_of_copyRd {s : State} (hs : s.walker = .copyRd) :
    ticks 2 s = (copyByte s).setWalker (if s.work.count - 1#24 ≠ 0#24 then .copyRd else .advance) := by
  have h1 : tick s = (copyRead s).setWalker .copyWr := by rw [tick, hs]; rfl
  have h2 : ticks 2 s = tickCopyWr ((copyRead s).setWalker .copyWr) := by rw [ticks, h1]; rfl
  rw [h2, tickCopyWr, copyWrite_setWalker, copyByte]
  simp only [State.setWalker_work, copyWrite_work, copyRead_work]; rfl

/-- The copy, two steps a byte, from its first COPY_RD to ADVANCE (R86, R87). -/
theorem ticks_of_copyRd (n : Nat) {s : State} (hs : s.walker = .copyRd) (hc : s.work.count.toNat = n + 1) :
    ticks (2 * (n + 1)) s = (copyBytes (n + 1) s).setWalker .advance := by
  induction n generalizing s with
  | zero =>
    have hc' : s.work.count - 1#24 = 0#24 := by bv_omega
    rw [ticks_two_of_copyRd hs, hc']; rfl
  | succ n ih =>
    have hne : s.work.count - 1#24 ≠ 0#24 := by bv_omega
    have h2 : ticks 2 s = (copyByte s).setWalker .copyRd := by rw [ticks_two_of_copyRd hs, if_pos hne]
    have hc' : ((copyByte s).setWalker .copyRd).work.count.toNat = n + 1 := by
      rw [State.setWalker_work, copyByte_work]; bv_omega
    rw [show 2 * (n + 1 + 1) = 2 + 2 * (n + 1) by omega, ticks_add, h2, ih rfl hc', copyBytes_setWalker]; rfl

/-- From the decode to ADVANCE a record copies its bytes, none when its length is 0 (R84, R98). -/
theorem ticks_of_decodeRecord (s : State) : ticks (2 * (recordDesc s.work.descBuf).length.toNat) (decodeRecord s) =
    (copyBytes (recordDesc s.work.descBuf).length.toNat
      (latch (recordDesc s.work.descBuf) (recordLast s.work.descBuf) s)).setWalker .advance := by
  rcases decodeRecord_cases s with ⟨hl, e⟩ | ⟨hl, e⟩ <;> rw [e]
  · obtain ⟨n, hn⟩ := Nat.exists_eq_succ_of_ne_zero (n := (recordDesc s.work.descBuf).length.toNat) (by bv_omega)
    rw [hn, ticks_of_copyRd n rfl hn, copyBytes_setWalker]; rfl
  · rw [hl]; rfl

/-- At ADVANCE the record ends, by `last` (R88, R89). -/
theorem tick_of_advance (s : State) : tick (s.setWalker .advance) =
    if s.work.last then complete (bumpDescAddr s) else nextRecord (bumpDescAddr s) := rfl

/-- A record run whole is its 11 + 2n steps of the engine (R79, R132). -/
theorem ticks_recordTicks {s : State} (hs : s.walker = .fetch 0) : ticks (recordTicks s) s = afterRecord s := by
  have hcopy : ticks (2 * (recordDesc s.record).length.toNat) (decodeRecord (fetchRecord s)) = (copyBytes (recordDesc s.record).length.toNat
      (latch (recordDesc s.record) (recordLast s.record) (fetchRecord s))).setWalker .advance := ticks_of_decodeRecord (fetchRecord s)
  obtain ⟨-, -, hlast, -⟩ := copyBytes_latched (recordDesc s.record).length.toNat
    (latch (recordDesc s.record) (recordLast s.record) (fetchRecord s))
  have hlatch : (latch (recordDesc s.record) (recordLast s.record) (fetchRecord s)).work.last = recordLast s.record := rfl
  rw [recordTicks, show 11 + 2 * (recordDesc s.record).length.toNat = 10 + 2 * (recordDesc s.record).length.toNat + 1 by omega,
    ticks_succ, ticks_add, ticks_ten hs, hcopy, tick_of_advance, hlast, hlatch, afterRecord_of_fetch hs]
  cases recordLast s.record <;> rfl

/-! ## What a copy leaves in RAM -/

@[simp] theorem State.peek_setWork (s : State) (w : Work) (a : Addr) : (s.setWork w).peek a = s.peek a := rfl

@[simp] theorem State.peek_bumpDescAddr (s : State) (a : Addr) : (bumpDescAddr s).peek a = s.peek a := rfl

@[simp] theorem State.peek_nextRecord (s : State) (a : Addr) : (nextRecord s).peek a = s.peek a := rfl

@[simp] theorem State.peek_fetchRecord (s : State) (a : Addr) : (fetchRecord s).peek a = s.peek a := by
  simp only [State.peek, fetchRecord_ram]

theorem masterWrite_ram_wf {s : State} (a : Addr) (v : Byte) (h : s.ram.wf = true) : (masterWrite a v s).ram.wf = true :=
  busWrite_ram_wf a v h

/-- A write leaves every other physical byte, whatever the page it goes to (R38, R44). -/
theorem peek_masterWrite_of_ne {a b : Addr} {s : State} (v : Byte) (hw : s.ram.wf = true) (h : physOf a ≠ physOf b) :
    (masterWrite a v s).peek b = s.peek b := by
  cases hs : s.plat.slot a with
  | ram => rw [peek_masterWrite_of_ram hs hw, if_neg h]
  | unbound => rw [masterWrite, busWrite_of_unbound v hs]; rfl
  | external dev => rw [masterWrite, busWrite_of_external v hs]; rfl

theorem copyLoop_plat (rs ws : StepMode) (n : Nat) (rd wr : Addr) (s : State) : (copyLoop rs ws n rd wr s).plat = s.plat := by
  obtain ⟨-, -, -, -, -, h, -⟩ := copyLoop_frame rs ws n rd wr s
  exact h

theorem copyLoop_ram_wf (rs ws : StepMode) (n : Nat) (rd wr : Addr) {s : State} (h : s.ram.wf = true) :
    (copyLoop rs ws n rd wr s).ram.wf = true := by
  induction n generalizing rd wr s with
  | zero => exact h
  | succ n ih => exact ih _ _ (masterWrite_ram_wf _ _ (by simpa using h))

/-- A copy of `m + n` bytes is one of `m` and, from where the counters then stand, one of `n`. -/
theorem copyLoop_add (rs ws : StepMode) (m n : Nat) (rd wr : Addr) (s : State) : copyLoop rs ws (m + n) rd wr s =
    copyLoop rs ws n (stepMany rs m rd) (stepMany ws m wr) (copyLoop rs ws m rd wr s) := by
  induction m generalizing rd wr s with
  | zero => rw [Nat.zero_add]; rfl
  | succ m ih => rw [Nat.succ_add, copyLoop, ih]; rfl

theorem stepMany_add (m : StepMode) (i j : Nat) (a : Addr) : stepMany m (i + j) a = stepMany m j (stepMany m i a) := by
  induction i generalizing a with
  | zero => rw [Nat.zero_add]; rfl
  | succ i ih => rw [Nat.succ_add, stepMany, ih]; rfl

/-- A copy leaves every physical byte it does not write (R38, R44, R82). -/
theorem peek_copyLoop_of_not_written (rs ws : StepMode) (n : Nat) (rd wr : Addr) {s : State} (hw : s.ram.wf = true) {a : Addr}
    (h : ∀ j < n, physOf (stepMany ws j wr) ≠ physOf a) : (copyLoop rs ws n rd wr s).peek a = s.peek a := by
  induction n generalizing rd wr s with
  | zero => rfl
  | succ n ih =>
    have hwf : (masterRead rd s).ram.wf = true := by simpa using hw
    rw [copyLoop, ih _ _ (masterWrite_ram_wf _ _ hwf) fun j hj => h (j + 1) (by omega),
      peek_masterWrite_of_ne (a := wr) _ hwf (h 0 (by omega)), peek_masterRead]

/-- A byte is copied as it stood if no earlier write of the copy changes its source and no later one its destination (R82, R100). -/
theorem peek_copyLoop_of_written (rs ws : StepMode) {n k : Nat} (hk : k < n) (rd wr : Addr) {s : State} (hw : s.ram.wf = true)
    (hrd : s.isRam (stepMany rs k rd) = true) (hwr : s.isRam (stepMany ws k wr) = true)
    (hbefore : ∀ j < k, physOf (stepMany ws j wr) ≠ physOf (stepMany rs k rd))
    (hafter : ∀ j, k < j → j < n → physOf (stepMany ws j wr) ≠ physOf (stepMany ws k wr)) :
    (copyLoop rs ws n rd wr s).peek (stepMany ws k wr) = s.peek (stepMany rs k rd) := by
  obtain ⟨m, rfl⟩ : ∃ m, n = k + (m + 1) := ⟨n - k - 1, by omega⟩
  have hwf : (copyLoop rs ws k rd wr s).ram.wf = true := copyLoop_ram_wf rs ws k rd wr hw
  have hslot : (copyLoop rs ws k rd wr s).plat.slot (stepMany rs k rd) = .ram := by
    rw [copyLoop_plat]; exact (s.isRam_iff _).mp hrd
  have hslot' : (masterRead (stepMany rs k rd) (copyLoop rs ws k rd wr s)).plat.slot (stepMany ws k wr) = .ram := by
    rw [masterRead_plat, copyLoop_plat]; exact (s.isRam_iff _).mp hwr
  have hwf' : (masterRead (stepMany rs k rd) (copyLoop rs ws k rd wr s)).ram.wf = true := by simpa using hwf
  have hlater (j : Nat) (hj : j < m) : physOf (stepMany ws j (stepAddr ws (stepMany ws k wr))) ≠ physOf (stepMany ws k wr) := by
    rw [← stepMany_succ, ← stepMany_add]
    exact hafter (k + 1 + j) (by omega) (by omega)
  rw [copyLoop_add, copyLoop, peek_copyLoop_of_not_written rs ws m _ _ (masterWrite_ram_wf _ _ hwf') hlater,
    peek_masterWrite_of_ram hslot' hwf', if_pos rfl, busValue_of_ram hslot, peek_copyLoop_of_not_written rs ws k rd wr hw hbefore]

theorem stepMany_increment (n : Nat) (a : Addr) : stepMany .increment n a = a + BitVec.ofNat 24 n := by
  induction n with
  | zero => simp
  | succ n ih => rw [stepMany_succ, ih, stepAddr, BitVec.add_assoc, BitVec.ofNat_add]

/-- A forward copy of at most 4 MiB between RAM ranges of which no source byte is a destination byte is exact (R102). -/
theorem peek_copyLoop_increment {n : Nat} (hn : n ≤ 4194304) (rd wr : Addr) {s : State} (hw : s.ram.wf = true)
    (hram : ∀ j < n, s.isRam (rd + BitVec.ofNat 24 j) = true ∧ s.isRam (wr + BitVec.ofNat 24 j) = true)
    (hapart : ∀ j < n, ∀ k < n, physOf (rd + BitVec.ofNat 24 j) ≠ physOf (wr + BitVec.ofNat 24 k)) {k : Nat} (hk : k < n) :
    (copyLoop .increment .increment n rd wr s).peek (wr + BitVec.ofNat 24 k) = s.peek (rd + BitVec.ofNat 24 k) := by
  have h := peek_copyLoop_of_written .increment .increment hk rd wr hw
  simp only [stepMany_increment] at h
  exact h (hram k hk).1 (hram k hk).2 (fun j hj => (hapart k hk j (by omega)).symm) fun j hkj hjn => physOf_add_ne hkj (by omega)

/-! ## A record that writes over the next one -/

theorem decodeDesc_eq_xfer_iff {b : Vector Byte 10} {d : Desc} :
    decodeDesc b = .xfer d ↔ recordLast b = false ∧ recordDesc b = d := by
  rcases decodeDesc_cases b with ⟨hl, e⟩ | ⟨hl, e⟩ <;> simp [hl, e]

/-- What a record that is not the last leaves for the next one: the environment of its copy loop, and `desc_addr` past it (R88, R91). -/
theorem afterRecord_of_xfer {s : State} (hs : s.walker = .fetch 0) {d : Desc} (hd : decodeDesc s.record = .xfer d) :
    ∃ w, afterRecord s = nextRecord (bumpDescAddr
      ((copyLoop d.readStep d.writeStep d.length.toNat d.readAddress d.writeAddress (fetchRecord s)).setWork w)) := by
  obtain ⟨hl, rfl⟩ := decodeDesc_eq_xfer_iff.mp hd
  obtain ⟨w, e⟩ := runRecord_eq_copyLoop (recordDesc s.record) false (fetchRecord s)
  exact ⟨w, by simp [afterRecord_of_fetch hs, hl, e]⟩

/-- A record that copies ten bytes of RAM forward onto the next record leaves the walker at that one, which then holds them (R48). -/
theorem afterRecord_holds_patch {s : State} {patch : Vector Byte 10} {d : Desc} (hs : s.walker = .fetch 0) (hwf : s.ram.wf = true)
    (hd : decodeDesc s.record = .xfer d) (hlen : d.length = 10#24) (hrs : d.readStep = .increment) (hws : d.writeStep = .increment)
    (hwr : d.writeAddress = s.descAddr + 10#24) (hc : s.holdsRecord d.readAddress patch)
    (hram : ∀ k : Fin 10, s.isRam (s.descAddr + 10#24 + BitVec.ofNat 24 k.val) = true)
    (hapart : ∀ j k : Fin 10,
      physOf (d.readAddress + BitVec.ofNat 24 j.val) ≠ physOf (s.descAddr + 10#24 + BitVec.ofNat 24 k.val)) :
    (afterRecord s).walker = .fetch 0 ∧ (afterRecord s).descAddr = s.descAddr + 10#24 ∧
    (afterRecord s).holdsRecord (s.descAddr + 10#24) patch := by
  obtain ⟨w, e⟩ := afterRecord_of_xfer hs hd
  rw [show d.length.toNat = 10 by rw [hlen]; rfl, hrs, hws, hwr] at e
  obtain ⟨hdesc, -, -, -, -, hplat, -⟩ := copyLoop_frame .increment .increment 10 d.readAddress (s.descAddr + 10#24) (fetchRecord s)
  rw [e]
  refine ⟨rfl, ?_, fun k => ⟨?_, ?_⟩⟩
  · simpa using hdesc
  · simpa [hplat] using hram k
  · have hcopy := peek_copyLoop_increment (n := 10) (by decide) d.readAddress (s.descAddr + 10#24)
      (s := fetchRecord s) (by simpa using hwf) (fun j hj => ⟨by simpa using (hc ⟨j, hj⟩).1, by simpa using hram ⟨j, hj⟩⟩)
      (fun j hj k hk => hapart ⟨j, hj⟩ ⟨k, hk⟩) k.isLt
    rw [State.peek_nextRecord, State.peek_bumpDescAddr, State.peek_setWork, hcopy, State.peek_fetchRecord, (hc k).2]

/-- DECODE keeps the record and latches its `is_last` (R84). -/
theorem decodeRecord_work_descBuf_last (s : State) :
    (decodeRecord s).work.descBuf = s.work.descBuf ∧ (decodeRecord s).work.last = recordLast s.work.descBuf := ⟨rfl, rfl⟩

/-- Settles O43: the record is its 11 + 2 * 10 steps of the engine, and the next one is fetched from where those left its bytes. -/
theorem patchedNextRecordIsFetched : Obligations.PatchedNextRecordIsFetched := by
  intro s b c d hs hwf hb hd hlen hrs hws hwr hc hram hapart
  rw [← record_eq_of_holds hb] at hd
  have h31 : ticks 31 s = afterRecord s := by
    rw [← ticks_recordTicks hs, recordTicks, (decodeDesc_eq_xfer_iff.mp hd).2, hlen]; rfl
  obtain ⟨hwalker, hdesc, hholds⟩ := afterRecord_holds_patch hs hwf hd hlen hrs hws hwr hc hram hapart
  have hrec : (afterRecord s).record = c := record_eq_of_holds (hdesc ▸ hholds)
  have h41 : ticks 41 s = decodeRecord (fetchRecord (afterRecord s)) := by rw [ticks_add 31 10, h31, ticks_ten hwalker]
  obtain ⟨hbuf, hlast⟩ := decodeRecord_work_descBuf_last (fetchRecord (afterRecord s))
  rw [h31, h41, hbuf, hlast]
  exact ⟨hwalker, hdesc, hrec, hrec, congrArg recordLast hrec⟩

end Sys2Proof.Machine

/-! PROOFS. The encoding (30_encoding.md): a PT word is its selector and its data byte, a record is its fields, the encoder and the decoder
are inverse on both, and reserved encodings change nothing a record does. -/

namespace Sys2Proof

/-! ## Port transactions -/

/-- The bytes of a PT word given as selector and data byte (R52; log entry 6). -/
theorem ptBytes_append (c : BitVec 4) (v : Byte) : ptBytes (c ++ v) = [v, 0#4 ++ c] := by
  rw [ptBytes, ptData, ptSelector]

/-- The two bytes of a PT word decode as that word (R52; log entry 6). -/
theorem decode_ptBytes (w : BitVec 12) (rest : List Byte) : decode .pt (ptBytes w ++ rest) = .ok (decodePT w, rest) := by
  obtain ⟨c, v, rfl⟩ := ptSplit w
  have hpad : (0#4 ++ c : Byte).extractLsb' 4 4 = 0#4 := BitVec.extractLsb'_append_eq_left
  have hsel : (0#4 ++ c : Byte).extractLsb' 0 4 = c := BitVec.extractLsb'_append_eq_right
  rw [ptBytes_append]
  simp only [List.cons_append, List.nil_append, decode, hpad, hsel, if_true]

@[simp] theorem decodePT_rdDesc0 (x : Byte) : decodePT (0x0#4 ++ x) = .rdDesc0 := by simp [decodePT, ptSelector]
@[simp] theorem decodePT_rdDesc1 (x : Byte) : decodePT (0x1#4 ++ x) = .rdDesc1 := by simp [decodePT, ptSelector]
@[simp] theorem decodePT_rdDesc2 (x : Byte) : decodePT (0x2#4 ++ x) = .rdDesc2 := by simp [decodePT, ptSelector]
@[simp] theorem decodePT_rdClk (x : Byte) : decodePT (0x3#4 ++ x) = .rdClk := by simp [decodePT, ptSelector]
@[simp] theorem decodePT_rdCtrl (x : Byte) : decodePT (0x4#4 ++ x) = .rdCtrl := by simp [decodePT, ptSelector]
@[simp] theorem decodePT_rdNone5 (x : Byte) : decodePT (0x5#4 ++ x) = .rdNone5 := by simp [decodePT, ptSelector]
@[simp] theorem decodePT_rdNone6 (x : Byte) : decodePT (0x6#4 ++ x) = .rdNone6 := by simp [decodePT, ptSelector]
@[simp] theorem decodePT_rdNone7 (x : Byte) : decodePT (0x7#4 ++ x) = .rdNone7 := by simp [decodePT, ptSelector]
@[simp] theorem decodePT_wrDesc0 (v : Byte) : decodePT (0x8#4 ++ v) = .wrDesc0 v := by simp [decodePT, ptSelector, ptData]
@[simp] theorem decodePT_wrDesc1 (v : Byte) : decodePT (0x9#4 ++ v) = .wrDesc1 v := by simp [decodePT, ptSelector, ptData]
@[simp] theorem decodePT_wrDesc2 (v : Byte) : decodePT (0xA#4 ++ v) = .wrDesc2 v := by simp [decodePT, ptSelector, ptData]
@[simp] theorem decodePT_wrClk (v : Byte) : decodePT (0xB#4 ++ v) = .wrClk v := by simp [decodePT, ptSelector, ptData]
@[simp] theorem decodePT_wrNone5 (v : Byte) : decodePT (0xD#4 ++ v) = .wrNone5 v := by simp [decodePT, ptSelector, ptData]
@[simp] theorem decodePT_wrNone6 (v : Byte) : decodePT (0xE#4 ++ v) = .wrNone6 v := by simp [decodePT, ptSelector, ptData]
@[simp] theorem decodePT_wrNone7 (v : Byte) : decodePT (0xF#4 ++ v) = .wrNone7 v := by simp [decodePT, ptSelector, ptData]

/-- Bit 0 of the data byte tells the two control writes apart (R61, R75, R76). -/
theorem decodePT_wrCtrl (v : Byte) : decodePT (0xC#4 ++ v) = if v.getLsbD 0 then .wrCtrlStart v else .wrCtrlNop v := by
  simp [decodePT, ptSelector, ptData]

theorem decodePT_wrCtrlStart {v : Byte} (h : v.getLsbD 0 = true) : decodePT (0xC#4 ++ v) = .wrCtrlStart v := by
  rw [decodePT_wrCtrl, if_pos h]

theorem decodePT_wrCtrlNop {v : Byte} (h : v.getLsbD 0 = false) : decodePT (0xC#4 ++ v) = .wrCtrlNop v := by
  rw [decodePT_wrCtrl, h]; rfl

/-- A well-formed port transaction is encoded as a PT word that decodes to it (R52, R61). -/
theorem encode_port {i : Instr} (hi : i.form = .pt) (hwf : i.wellFormed = true) : ∃ w, encode i = ptBytes w ∧ decodePT w = i := by
  cases i with
  | rdDesc0 => exact ⟨_, rfl, decodePT_rdDesc0 0⟩
  | rdDesc1 => exact ⟨_, rfl, decodePT_rdDesc1 0⟩
  | rdDesc2 => exact ⟨_, rfl, decodePT_rdDesc2 0⟩
  | rdClk => exact ⟨_, rfl, decodePT_rdClk 0⟩
  | rdCtrl => exact ⟨_, rfl, decodePT_rdCtrl 0⟩
  | rdNone5 => exact ⟨_, rfl, decodePT_rdNone5 0⟩
  | rdNone6 => exact ⟨_, rfl, decodePT_rdNone6 0⟩
  | rdNone7 => exact ⟨_, rfl, decodePT_rdNone7 0⟩
  | wrDesc0 v => exact ⟨_, rfl, decodePT_wrDesc0 v⟩
  | wrDesc1 v => exact ⟨_, rfl, decodePT_wrDesc1 v⟩
  | wrDesc2 v => exact ⟨_, rfl, decodePT_wrDesc2 v⟩
  | wrClk v => exact ⟨_, rfl, decodePT_wrClk v⟩
  | wrCtrlStart v => exact ⟨_, rfl, decodePT_wrCtrlStart hwf⟩
  | wrCtrlNop v => exact ⟨_, rfl, decodePT_wrCtrlNop (by simpa [Instr.wellFormed] using hwf)⟩
  | wrNone5 v => exact ⟨_, rfl, decodePT_wrNone5 v⟩
  | wrNone6 v => exact ⟨_, rfl, decodePT_wrNone6 v⟩
  | wrNone7 v => exact ⟨_, rfl, decodePT_wrNone7 v⟩
  | xfer d => cases hi
  | xferLast d => cases hi

/-- The selectors of the write rows have `W` = 1 (R52, R61). -/
theorem writeSelector_cases (c : BitVec 4) (h : c.getLsbD 3 = true) :
    c = 0x8#4 ∨ c = 0x9#4 ∨ c = 0xA#4 ∨ c = 0xB#4 ∨ c = 0xC#4 ∨ c = 0xD#4 ∨ c = 0xE#4 ∨ c = 0xF#4 := by
  revert c; decide

/-- The selectors of the read rows have `W` = 0 (R52, R61). -/
theorem readSelector_cases (c : BitVec 4) (h : c.getLsbD 3 = false) :
    c = 0x0#4 ∨ c = 0x1#4 ∨ c = 0x2#4 ∨ c = 0x3#4 ∨ c = 0x4#4 ∨ c = 0x5#4 ∨ c = 0x6#4 ∨ c = 0x7#4 := by
  revert c; decide

/-- A write word is the encoding of the write it stands for (R52, R61). -/
theorem encode_decodePT_of_write {c : BitVec 4} (h : c.getLsbD 3 = true) (v : Byte) :
    encode (decodePT (c ++ v)) = ptBytes (c ++ v) ∧ (decodePT (c ++ v)).wellFormed = true := by
  rcases writeSelector_cases c h with rfl | rfl | rfl | rfl | rfl | rfl | rfl | rfl
  · rw [decodePT_wrDesc0]; exact ⟨rfl, rfl⟩
  · rw [decodePT_wrDesc1]; exact ⟨rfl, rfl⟩
  · rw [decodePT_wrDesc2]; exact ⟨rfl, rfl⟩
  · rw [decodePT_wrClk]; exact ⟨rfl, rfl⟩
  · cases hv : v.getLsbD 0 with
    | true => rw [decodePT_wrCtrlStart hv]; exact ⟨rfl, hv⟩
    | false => rw [decodePT_wrCtrlNop hv]; exact ⟨rfl, by rw [Instr.wellFormed, hv]; rfl⟩
  · rw [decodePT_wrNone5]; exact ⟨rfl, rfl⟩
  · rw [decodePT_wrNone6]; exact ⟨rfl, rfl⟩
  · rw [decodePT_wrNone7]; exact ⟨rfl, rfl⟩

/-- A read word is the encoding of the read it stands for, but for the data byte, which is written as 0 (R52, R61). -/
theorem encode_decodePT_of_read {c : BitVec 4} (h : c.getLsbD 3 = false) (x : Byte) :
    encode (decodePT (c ++ x)) = ptBytes (c ++ 0#8) := by
  rcases readSelector_cases c h with rfl | rfl | rfl | rfl | rfl | rfl | rfl | rfl
  · rw [decodePT_rdDesc0]; rfl
  · rw [decodePT_rdDesc1]; rfl
  · rw [decodePT_rdDesc2]; rfl
  · rw [decodePT_rdClk]; rfl
  · rw [decodePT_rdCtrl]; rfl
  · rw [decodePT_rdNone5]; rfl
  · rw [decodePT_rdNone6]; rfl
  · rw [decodePT_rdNone7]; rfl

/-- `W` is bit 11 of a PT word, the top bit of its selector (R52). -/
theorem getLsbD_eleven_append (c : BitVec 4) (v : Byte) : (c ++ v).getLsbD 11 = c.getLsbD 3 := BitVec.getLsbD_append

/-- Masking a PT word with `0xF00` clears its data byte (R52). -/
theorem append_and_selectorMask (c : BitVec 4) (v : Byte) : (c ++ v) &&& 0xF00#12 = c ++ 0#8 := by
  have hmask : 0xF00#12 = BitVec.allOnes 4 ++ 0#8 := rfl
  rw [hmask, BitVec.and_append, BitVec.and_allOnes, BitVec.and_zero]

/-! ## Descriptor records -/

@[simp] theorem byteOf_zero_le24 (a b c : Byte) : byteOf 0 (le24 a b c) = a := BitVec.extractLsb'_append_eq_right

@[simp] theorem byteOf_one_le24 (a b c : Byte) : byteOf 1 (le24 a b c) = b := by
  rw [byteOf, le24, BitVec.extractLsb'_append_eq_of_le (by decide)]
  exact BitVec.extractLsb'_append_eq_right

@[simp] theorem byteOf_two_le24 (a b c : Byte) : byteOf 2 (le24 a b c) = c := by
  rw [byteOf, le24, BitVec.extractLsb'_append_eq_of_le (by decide)]
  exact BitVec.extractLsb'_append_eq_left

/-- A 24-bit value is its three bytes, little-endian (R16, R30). -/
@[simp] theorem le24_byteOf (a : BitVec 24) : le24 (byteOf 0 a) (byteOf 1 a) (byteOf 2 a) = a := by
  simp only [le24, byteOf]
  rw [BitVec.extractLsb'_append_extractLsb'_eq_extractLsb' (by rfl), BitVec.extractLsb'_append_extractLsb'_eq_extractLsb' (by rfl)]
  exact BitVec.extractLsb'_eq_self

/-- The four slices of a `flags` byte (R56). -/
theorem flagsByte_slices (d : Desc) (last : Bool) :
    (flagsByte d last).extractLsb' 0 2 = d.readStep.toBits ∧ (flagsByte d last).extractLsb' 2 2 = d.writeStep.toBits ∧
    (flagsByte d last).getLsbD 4 = last ∧ (flagsByte d last).extractLsb' 5 3 = d.reserved := by
  unfold flagsByte
  generalize d.reserved = r, d.writeStep.toBits = w, d.readStep.toBits = m
  revert r w m last; decide

/-- A byte is put together again from its four slices as `flags` (R56). -/
theorem flagsByte_of_slices (f : Byte) :
    f.extractLsb' 5 3 ++ BitVec.ofBool (f.getLsbD 4) ++ f.extractLsb' 2 2 ++ f.extractLsb' 0 2 = f := by
  revert f; decide

/-- The fields read from the bytes of a record are those it was written with (R54 to R57). -/
theorem recordDesc_descBytes (d : Desc) (last : Bool) : recordDesc (descBytes d last) = d := by
  obtain ⟨hrs, hws, -, hres⟩ := flagsByte_slices d last
  have hfields : recordDesc (descBytes d last) =
      { readAddress := le24 (byteOf 0 d.readAddress) (byteOf 1 d.readAddress) (byteOf 2 d.readAddress)
        writeAddress := le24 (byteOf 0 d.writeAddress) (byteOf 1 d.writeAddress) (byteOf 2 d.writeAddress)
        length := le24 (byteOf 0 d.length) (byteOf 1 d.length) (byteOf 2 d.length)
        readStep := StepMode.ofBits ((flagsByte d last).extractLsb' 0 2)
        writeStep := StepMode.ofBits ((flagsByte d last).extractLsb' 2 2)
        reserved := (flagsByte d last).extractLsb' 5 3 } := rfl
  rw [hfields]
  simp only [le24_byteOf, hrs, hws, hres, StepMode.ofBits_toBits]

theorem recordLast_descBytes (d : Desc) (last : Bool) : recordLast (descBytes d last) = last := by
  obtain ⟨-, -, hlast, -⟩ := flagsByte_slices d last
  exact hlast

/-- The bytes written from the fields of a record are the record, no bit lost (R54 to R57). -/
theorem descBytes_recordDesc (b : Vector Byte 10) : descBytes (recordDesc b) (recordLast b) = b := by
  have hflags : flagsByte (recordDesc b) (recordLast b) = b[9] := by
    simp only [flagsByte, recordDesc, StepMode.toBits_ofBits]
    exact flagsByte_of_slices b[9]
  simp only [descBytes, hflags]
  simp only [recordDesc, byteOf_zero_le24, byteOf_one_le24, byteOf_two_le24]
  exact (record_eta b).symm

/-- Ten bytes decode as a record, and the bytes after them are left over (R54, R61). -/
theorem decode_record (b : Vector Byte 10) (rest : List Byte) : decode .desc (b.toList ++ rest) = .ok (decodeDesc b, rest) := by
  rw [record_eta b]; rfl

theorem decodeDesc_descBytes (d : Desc) (last : Bool) :
    decodeDesc (descBytes d last) = if last then .xferLast d else .xfer d := by
  rw [decodeDesc, recordLast_descBytes, recordDesc_descBytes]

/-- The bytes of a record's instruction are those of its fields, `is_last` by the constructor (R54, R61). -/
theorem encode_record (d : Desc) (last : Bool) : encode (if last then .xferLast d else .xfer d) = (descBytes d last).toList := by
  cases last <;> rfl

theorem encode_decodeDesc (b : Vector Byte 10) : encode (decodeDesc b) = b.toList := by
  rw [decodeDesc, encode_record, descBytes_recordDesc]

theorem decodeDesc_wellFormed (b : Vector Byte 10) : (decodeDesc b).wellFormed = true := by
  rcases Machine.decodeDesc_cases b with ⟨-, e⟩ | ⟨-, e⟩ <;> rw [e] <;> rfl

/-! ## The encoder and the decoder are inverse -/

/-- Settles O50: a port transaction through its PT word, a descriptor through its ten bytes. -/
theorem decodeOfEncodeIsTheInstruction : Obligations.DecodeOfEncodeIsTheInstruction := by
  intro i rest hwf
  cases hf : i.form with
  | pt =>
    obtain ⟨w, henc, hdec⟩ := encode_port hf hwf
    rw [henc, decode_ptBytes, hdec]
  | desc =>
    cases i with
    | xfer d => exact (decode_record (descBytes d false) rest).trans (by rw [decodeDesc_descBytes]; rfl)
    | xferLast d => exact (decode_record (descBytes d true) rest).trans (by rw [decodeDesc_descBytes]; rfl)
    | _ => cases hf

/-- Settles O51: a record by its fields, a PT word by its selector and data byte. -/
theorem encodeOfDecodeIsTheWord : Obligations.EncodeOfDecodeIsTheWord := by
  refine ⟨fun b => ⟨encode_decodeDesc b, decodeDesc_wellFormed b⟩, fun w hw => ?_, fun w hw => ?_⟩
  · obtain ⟨c, v, rfl⟩ := ptSplit w
    exact encode_decodePT_of_write (getLsbD_eleven_append c v ▸ hw) v
  · obtain ⟨c, v, rfl⟩ := ptSplit w
    rw [append_and_selectorMask, encode_decodePT_of_read (getLsbD_eleven_append c v ▸ hw)]

/-! ## The fields of a record as slices of its value -/

/-- The 80-bit value of a record, field by field (R54, R55). -/
theorem wordOf_record (b : Vector Byte 10) : wordOf b.toList = (recordDesc b).readAddress.toNat +
    2 ^ 24 * (recordDesc b).writeAddress.toNat + 2 ^ 48 * (recordDesc b).length.toNat + 2 ^ 72 * b[9].toNat := by
  have hbytes : b.toList = [b[0], b[1], b[2], b[3], b[4], b[5], b[6], b[7], b[8], b[9]] := congrArg Vector.toList (record_eta b)
  simp only [hbytes, wordOf, recordDesc, le24_toNat]
  ring

/-- The slices of the `flags` byte as numbers (R56). -/
theorem record_flags_toNat (b : Vector Byte 10) :
    (recordDesc b).readStep.toBits.toNat = b[9].toNat % 4 ∧ (recordDesc b).writeStep.toBits.toNat = b[9].toNat / 4 % 4 ∧
    (recordLast b).toNat = b[9].toNat / 16 % 2 ∧ (recordDesc b).reserved.toNat = b[9].toNat / 32 := by
  simp only [recordDesc, recordLast, StepMode.toBits_ofBits]
  generalize b[9] = f
  revert f; decide

/-- Settles O53: the value is the sum of the fields, each below its own power of two. -/
theorem recordFieldsAreSlicesOfTheRecord : Obligations.RecordFieldsAreSlicesOfTheRecord := by
  intro b
  obtain ⟨hrs, hws, hl, hres⟩ := record_flags_toNat b
  rw [wordOf_record, hrs, hws, hl, hres]
  have hra := (recordDesc b).readAddress.isLt
  have hwa := (recordDesc b).writeAddress.isLt
  have hlen := (recordDesc b).length.isLt
  refine ⟨?_, ?_, ?_, ?_, ?_, ?_, ?_⟩ <;> omega

end Sys2Proof

namespace Sys2Proof.Machine

/-! ## A port transaction in IDLE -/

/-- Settles O16: the event is the transaction its word stands for. -/
theorem stepRunsPortTransaction : Obligations.StepRunsPortTransaction := fun _ _ _ hs hi => step_of_event hs hi

/-! ## Reserved encodings -/

/-- The copy depends on a step mode only by what it does to a counter (R93). -/
theorem copyLoop_congr {rs rs' ws ws' : StepMode} (hr : stepAddr rs' = stepAddr rs) (hw : stepAddr ws' = stepAddr ws) (n : Nat)
    (rd wr : Addr) (s : State) : copyLoop rs' ws' n rd wr s = copyLoop rs ws n rd wr s := by
  induction n generalizing rd wr s with
  | zero => rfl
  | succ n ih => simp only [copyLoop, hr, hw, ih]

/-- The reserved mode steps a counter as FIXED does (R94, R97). -/
theorem stepAddr_reserved3 : stepAddr .reserved3 = stepAddr .fixed := rfl

/-- Records with the same addresses and length, and step modes that do the same, differ only in what they leave in the working registers
(R79, R93). -/
theorem runRecord_congr {d d' : Desc} (hra : d'.readAddress = d.readAddress) (hwa : d'.writeAddress = d.writeAddress)
    (hlen : d'.length = d.length) (hrs : stepAddr d'.readStep = stepAddr d.readStep) (hws : stepAddr d'.writeStep = stepAddr d.writeStep)
    (last : Bool) (s : State) : ∃ w, runRecord d' last s = (runRecord d last s).setWork w := by
  obtain ⟨w, e⟩ := runRecord_eq_copyLoop d last s
  obtain ⟨w', e'⟩ := runRecord_eq_copyLoop d' last s
  exact ⟨w', by rw [e, e', hra, hwa, hlen, copyLoop_congr hrs hws]; rfl⟩

/-- What XFER leaves is the same, the working registers apart, if what the copy leaves is (R91). -/
theorem exec_xfer_congr {d d' : Desc} {s : State} (hb : s.busy = true)
    (h : ∃ w, runRecord d' false s = (runRecord d false s).setWork w) (t : State) (ht : exec (.xfer d) s = .next t) :
    ∃ w, exec (.xfer d') s = .next { t with work := w } := by
  obtain ⟨w, e⟩ := h
  rw [exec_xfer_of_busy d hb] at ht
  obtain rfl := Host.Outcome.next.inj ht
  exact ⟨_, by rw [exec_xfer_of_busy d' hb, e]; rfl⟩

/-- Completion forgets the working registers, so XFER.LAST leaves the same if what the copy leaves is (R89, R92). -/
theorem exec_xferLast_congr {d d' : Desc} {s : State} (hb : s.busy = true)
    (h : ∃ w, runRecord d' true s = (runRecord d true s).setWork w) : exec (.xferLast d') s = exec (.xferLast d) s := by
  obtain ⟨w, e⟩ := h
  rw [exec_xferLast_of_busy d' hb, exec_xferLast_of_busy d hb, e]; rfl

/-- DECODE latches no reserved bit (R59, R84). -/
theorem runRecord_reserved (d : Desc) (r : BitVec 3) (last : Bool) (s : State) :
    runRecord { d with reserved := r } last s = runRecord d last s := rfl

/-- Settles O31: the reserved bits are not latched, and the copy does the same in mode 3 as in FIXED. -/
theorem reservedEncodingsChangeNothing : Obligations.ReservedEncodingsChangeNothing := by
  intro s d r hb
  have hread (last : Bool) := runRecord_congr (d := { d with readStep := .fixed }) (d' := { d with readStep := .reserved3 })
    rfl rfl rfl stepAddr_reserved3 rfl last s
  have hwrite (last : Bool) := runRecord_congr (d := { d with writeStep := .fixed }) (d' := { d with writeStep := .reserved3 })
    rfl rfl rfl rfl stepAddr_reserved3 last s
  refine ⟨?_, ?_, exec_xfer_congr hb (hread false), exec_xfer_congr hb (hwrite false), exec_xferLast_congr hb (hread true),
    exec_xferLast_congr hb (hwrite true)⟩
  · rw [exec_xfer_of_busy _ hb, exec_xfer_of_busy _ hb, runRecord_reserved]
  · rw [exec_xferLast_of_busy _ hb, exec_xferLast_of_busy _ hb, runRecord_reserved]

end Sys2Proof.Machine

/-! PROOFS. The register port in IDLE (40_register_access.md): what each read answers and each write changes, and the three byte
writes of an address, which come to the same in any order. -/

namespace Sys2Proof.Machine

/-! ## Byte writes by the bytes of `desc_addr` -/

/-- The low byte replaced, the other two kept (R71). -/
@[simp] theorem withByte0_eq_le24 (x : Addr) (v : Byte) : withByte0 x v = le24 v (byteOf 1 x) (byteOf 2 x) := by
  rw [withByte0, le24, byteOf, byteOf, BitVec.extractLsb'_append_extractLsb'_eq_extractLsb' (by rfl)]

/-- The middle byte replaced, the other two kept (R72). -/
@[simp] theorem withByte1_eq_le24 (x : Addr) (v : Byte) : withByte1 x v = le24 (byteOf 0 x) v (byteOf 2 x) := rfl

/-- The high byte replaced, the other two kept (R73). -/
@[simp] theorem withByte2_eq_le24 (x : Addr) (v : Byte) : withByte2 x v = le24 (byteOf 0 x) (byteOf 1 x) v := by
  have hlow : byteOf 1 x ++ byteOf 0 x = x.extractLsb' 0 16 := BitVec.extractLsb'_append_extractLsb'_eq_extractLsb' rfl
  rw [withByte2, le24, BitVec.append_assoc, hlow, BitVec.cast_eq]

/-! ## Reads of one byte -/

theorem exec_rdDesc0_of_idle {s : State} (hs : s.walker = .idle) :
    exec .rdDesc0 s = .next (s.reply (.data (byteOf 0 s.descAddr))) := portRead_of_idle _ hs

theorem exec_rdDesc1_of_idle {s : State} (hs : s.walker = .idle) :
    exec .rdDesc1 s = .next (s.reply (.data (byteOf 1 s.descAddr))) := portRead_of_idle _ hs

theorem exec_rdDesc2_of_idle {s : State} (hs : s.walker = .idle) :
    exec .rdDesc2 s = .next (s.reply (.data (byteOf 2 s.descAddr))) := portRead_of_idle _ hs

/-! ## A run of byte writes -/

/-- The writes of one byte of `desc_addr` (R71 to R73). -/
def isDescWrite : Instr → Bool
  | .wrDesc0 _ => true
  | .wrDesc1 _ => true
  | .wrDesc2 _ => true
  | _ => false

/-- The `desc_addr` such a write makes of the one before it (R71 to R73). Other instructions do not matter here and leave it. -/
def descAfter (x : Addr) : Instr → Addr
  | .wrDesc0 v => withByte0 x v
  | .wrDesc1 v => withByte1 x v
  | .wrDesc2 v => withByte2 x v
  | _ => x

/-- A byte write takes effect at once and completes (R71 to R73, R78). -/
theorem exec_of_isDescWrite {i : Instr} (hi : isDescWrite i = true) {s : State} (hs : s.walker = .idle) :
    exec i s = .next ((s.setDescAddr (descAfter s.descAddr i)).reply .done) := by
  cases i with
  | wrDesc0 v => exact portWrite_of_idle _ hs
  | wrDesc1 v => exact portWrite_of_idle _ hs
  | wrDesc2 v => exact portWrite_of_idle _ hs
  | _ => cases hi

theorem runInstrs_cons_of_next {i : Instr} {s t : State} (h : exec i s = .next t) (l : List Instr) :
    runInstrs (i :: l) s = runInstrs l t := by
  rw [runInstrs, h]

theorem runInstrs_append_of_next {l : List Instr} {s t : State} (h : runInstrs l s = .next t) (m : List Instr) :
    runInstrs (l ++ m) s = runInstrs m t := by
  induction l generalizing s with
  | nil => rw [← Host.Outcome.next.inj h]; rfl
  | cons i l ih =>
    simp only [List.cons_append, runInstrs] at h ⊢
    cases hi : exec i s with
    | next u => rw [hi] at h; exact ih h
    | fault r => rw [hi] at h; cases h
    | refused r => rw [hi] at h; cases h

/-- Byte writes in a row: their effects on `desc_addr` one after the other, and one completion each (R71 to R73). -/
theorem runInstrs_of_isDescWrite {l : List Instr} (hl : ∀ i ∈ l, isDescWrite i = true) {s : State} (hs : s.walker = .idle) :
    runInstrs l s = .next { s with
      descAddr := l.foldl descAfter s.descAddr, replies := List.replicate l.length .done ++ s.replies } := by
  induction l generalizing s with
  | nil => rfl
  | cons i l ih =>
    obtain ⟨hi, hl⟩ := List.forall_mem_cons.mp hl
    rw [List.length_cons, List.replicate_succ', List.append_assoc]
    exact (runInstrs_cons_of_next (exec_of_isDescWrite hi hs) l).trans (ih hl hs)

/-! ## The three byte writes of an address -/

/-- The byte writes of an address, low byte first (R16). -/
def addrWrites (a : Addr) : List Instr := [.wrDesc0 (byteOf 0 a), .wrDesc1 (byteOf 1 a), .wrDesc2 (byteOf 2 a)]

theorem mem_addrWrites {a : Addr} {i : Instr} :
    i ∈ addrWrites a ↔ i = .wrDesc0 (byteOf 0 a) ∨ i = .wrDesc1 (byteOf 1 a) ∨ i = .wrDesc2 (byteOf 2 a) := by
  simp [addrWrites]

theorem isDescWrite_of_mem_addrWrites {a : Addr} {i : Instr} (hi : i ∈ addrWrites a) : isDescWrite i = true := by
  rcases mem_addrWrites.mp hi with rfl | rfl | rfl <;> rfl

/-- Writes of different bytes commute (R71 to R73). -/
theorem descAfter_comm {a : Addr} {i j : Instr} (hi : i ∈ addrWrites a) (hj : j ∈ addrWrites a) (x : Addr) :
    descAfter (descAfter x i) j = descAfter (descAfter x j) i := by
  rcases mem_addrWrites.mp hi with rfl | rfl | rfl <;> rcases mem_addrWrites.mp hj with rfl | rfl | rfl <;> simp [descAfter]

/-- All three bytes written leave nothing of the old address (R16). -/
theorem foldl_descAfter_addrWrites (a x : Addr) : (addrWrites a).foldl descAfter x = a := by
  simp [addrWrites, descAfter]

/-- Reading the three bytes, low byte first, answers them and changes nothing else (R65 to R67). -/
theorem runInstrs_descReads {s : State} (hs : s.walker = .idle) :
    runInstrs [.rdDesc0, .rdDesc1, .rdDesc2] s =
      .next (((s.reply (.data (byteOf 0 s.descAddr))).reply (.data (byteOf 1 s.descAddr))).reply (.data (byteOf 2 s.descAddr))) := by
  simp [runInstrs, exec_rdDesc0_of_idle, exec_rdDesc1_of_idle, exec_rdDesc2_of_idle, hs]

/-- Settles O11: writes of different bytes commute, so every order of the three leaves what the low byte first leaves. -/
theorem descAddrWritesInAnyOrderBuildTheAddress : Obligations.DescAddrWritesInAnyOrderBuildTheAddress := by
  intro s a l hs hl
  have hperm : l.Perm (addrWrites a) := hl
  have hmem {i : Instr} (hi : i ∈ l) : i ∈ addrWrites a := hperm.mem_iff.mp hi
  have haddr : l.foldl descAfter s.descAddr = a := by
    rw [hperm.foldl_eq' (fun _ hi _ hj => descAfter_comm (hmem hi) (hmem hj)), foldl_descAfter_addrWrites]
  have hwrites := runInstrs_of_isDescWrite (fun _ hi => isDescWrite_of_mem_addrWrites (hmem hi)) hs
  rw [haddr, hperm.length_eq] at hwrites
  exact ⟨hwrites, (runInstrs_append_of_next hwrites _).trans (runInstrs_descReads hs)⟩

/-! ## One port transaction -/

/-- Settles O4: each read answers its own byte. -/
theorem descAddrReadsReturnTheirByte : Obligations.DescAddrReadsReturnTheirByte := fun _ x hs =>
  ⟨decodePT_rdDesc0 x, decodePT_rdDesc1 x, decodePT_rdDesc2 x, exec_rdDesc0_of_idle hs, exec_rdDesc1_of_idle hs,
    exec_rdDesc2_of_idle hs⟩

/-- Settles O5: each write replaces its own byte. -/
theorem descAddrWritesChangeTheirByte : Obligations.DescAddrWritesChangeTheirByte := fun _ v hs =>
  ⟨decodePT_wrDesc0 v, decodePT_wrDesc1 v, decodePT_wrDesc2 v, exec_of_isDescWrite rfl hs, exec_of_isDescWrite rfl hs,
    exec_of_isDescWrite rfl hs⟩

/-- Settles O6: one read and one write of the raw byte, whose nibbles are the two fields by definition. -/
theorem clkReadsAndWritesTheRawByte : Obligations.ClkReadsAndWritesTheRawByte := fun _ v hs =>
  ⟨decodePT_rdClk v, decodePT_wrClk v, portRead_of_idle _ hs, portWrite_of_idle _ hs, rfl, rfl⟩

/-- Settles O7: a read at these offsets is a read of 0x00. -/
theorem ctrlAndUnknownOffsetsReadZero : Obligations.CtrlAndUnknownOffsetsReadZero := fun _ x hs =>
  ⟨decodePT_rdCtrl x, decodePT_rdNone5 x, decodePT_rdNone6 x, decodePT_rdNone7 x, portRead_of_idle _ hs, portRead_of_idle _ hs,
    portRead_of_idle _ hs, portRead_of_idle _ hs⟩

/-- In IDLE the start write starts a transfer, whatever its data byte's other bits (R75). -/
theorem exec_wrCtrlStart_of_idle (v : Byte) {s : State} (hs : s.walker = .idle) : exec (.wrCtrlStart v) s = .next (startTransfer s) := by
  simp only [exec, execWrCtrlStart, hs]

/-- Settles O8: bit 0 makes the word a start write, and that starts a transfer. -/
theorem startWriteBeginsAtFetchZero : Obligations.StartWriteBeginsAtFetchZero := fun _ v hs hv =>
  ⟨decodePT_wrCtrlStart hv, exec_wrCtrlStart_of_idle v hs⟩

/-- Settles O9: without bit 0 the word is a write that keeps the state. -/
theorem ctrlWriteWithoutStartBitDoesNothing : Obligations.CtrlWriteWithoutStartBitDoesNothing := fun _ _ hs hv =>
  ⟨decodePT_wrCtrlNop hv, portWrite_of_idle id hs⟩

/-- Settles O10: a write at these offsets keeps the state. -/
theorem unknownOffsetWritesDoNothing : Obligations.UnknownOffsetWritesDoNothing := fun _ v hs =>
  ⟨decodePT_wrNone5 v, decodePT_wrNone6 v, decodePT_wrNone7 v, portWrite_of_idle id hs, portWrite_of_idle id hs,
    portWrite_of_idle id hs⟩

end Sys2Proof.Machine

/-! PROOFS. The descriptor walker (41_descriptor_walker.md): one step of the engine, a record run whole, a chain of records, and what a copy
leaves in memory. -/

namespace Sys2Proof.Machine

/-! ## One step of the engine -/

theorem State.setWalker_self {s : State} {w : Walker} (h : s.walker = w) : s.setWalker w = s := by subst h; rfl

theorem tick_of_fetch {s : State} {k : Fin 10} (hs : s.walker = .fetch k) : tick s = tickFetch k s := by simp only [tick, hs]

theorem tick_of_copyRd {s : State} (hs : s.walker = .copyRd) : tick s = tickCopyRd s := by simp only [tick, hs]

theorem tick_of_copyWr {s : State} (hs : s.walker = .copyWr) : tick s = tickCopyWr s := by simp only [tick, hs]

theorem tickFetch_of_lt {k : Fin 10} (h : k.val < 9) (s : State) :
    tickFetch k s = (fetchByte k s).setWalker (.fetch ⟨k.val + 1, by omega⟩) := dif_pos h

theorem tickFetch_nine (s : State) : tickFetch 9 s = decodeRecord (fetchByte 9 s) := rfl

/-- A master read is recorded, and changes nothing else but what a device has got (R35, R38). -/
theorem masterRead_eq (a : Addr) (s : State) : masterRead a s = { s with
    trace := .read a (busValue a s) :: s.trace, devLog := (afterRead a s).devLog } := by
  rcases afterRead_eq a s with ⟨-, h⟩ | ⟨_, -, h⟩ <;> rw [masterRead, h] <;> rfl

/-- Which bytes of RAM a bus write leaves: the one under its address changes, in a RAM page only (R37, R44; log entry 5). -/
theorem busWrite_ram (a : Addr) (v : Byte) (s : State) :
    (busWrite a v s).ram = if s.isRam a then s.ram.write (a.toNat % 2 ^ 22) v else s.ram := by
  rw [← physOf_toNat]
  rcases busWrite_eq a v s with ⟨hs, h⟩ | ⟨hs, h⟩ | ⟨_, hs, h⟩ <;> simp [h, hs, State.isRam]

/-- A master write is recorded, and changes nothing else but the RAM or what a device has got (R35, R38, R44). -/
theorem masterWrite_eq (a : Addr) (v : Byte) (s : State) : masterWrite a v s = { s with
    ram := (busWrite a v s).ram, trace := .write a v :: s.trace, devLog := (busWrite a v s).devLog } := by
  rcases busWrite_eq a v s with ⟨-, h⟩ | ⟨-, h⟩ | ⟨_, -, h⟩ <;> rw [masterWrite, h] <;> rfl

/-- Settles O20: below 9 the step is the fetch read and the next index. -/
theorem fetchStepReadsOneByteOfTheRecord : Obligations.FetchStepReadsOneByteOfTheRecord := by
  intro s k hs
  have hk : nextIndex k.castSucc = BitVec.ofNat 4 (k.val + 1) := if_pos k.isLt
  rw [tick_of_fetch hs, tickFetch_of_lt k.isLt, fetchByte_eq, hk]; rfl

/-- DECODE as one equation: the fields latched, and the branch on the length (R84, R98). -/
theorem decodeRecord_eq (s : State) : decodeRecord s =
    (latch (recordDesc s.work.descBuf) (recordLast s.work.descBuf) s).setWalker
      (if (recordDesc s.work.descBuf).length = 0#24 then .advance else .copyRd) := by
  rcases decodeRecord_cases s with ⟨hl, e⟩ | ⟨hl, e⟩ <;> simp [e, hl]

/-- Settles O21: the tenth fetch read, then DECODE. -/
theorem decodeStepLatchesTheFields : Obligations.DecodeStepLatchesTheFields := by
  intro s b hs hb
  subst hb
  rw [tick_of_fetch hs, tickFetch_nine, decodeRecord_eq, fetchByte_eq]; rfl

/-- Settles O22: the step is one master read into `data`. -/
theorem copyReadStepReadsOneByte : Obligations.CopyReadStepReadsOneByte := by
  intro s hs
  rw [tick_of_copyRd hs, tickCopyRd, copyRead, masterRead_eq]; rfl

/-- Settles O23: the step is one master write and the counters; `count` is 0 after it exactly when it was 1. -/
theorem copyWriteStepWritesOneByte : Obligations.CopyWriteStepWritesOneByte := by
  intro s hs
  rw [tick_of_copyWr hs, tickCopyWr]
  have hcount : s.work.count - 1#24 = 0#24 ↔ s.work.count = 1#24 := sub_eq_zero
  simp only [copyWrite_work, ne_eq, ite_not, hcount]
  rw [copyWrite, masterWrite_eq, busWrite_ram]; rfl

/-- Settles O24: `last` chooses between completion and the next record. -/
theorem advanceStepMovesPastTheRecord : Obligations.AdvanceStepMovesPastTheRecord := by
  intro s hs
  have h := tick_of_advance s
  rw [State.setWalker_self hs] at h
  refine ⟨fun hl => ?_, fun hl => ⟨Work.free s.draws, s.draws + 1, ?_⟩⟩ <;> rw [h, hl] <;> rfl

/-! ## Bus operations and the pace of a step -/

theorem tickFetch_trace (k : Fin 10) (s : State) : (tickFetch k s).trace =
    .read (s.descAddr + BitVec.ofNat 24 k.val) (busValue (s.descAddr + BitVec.ofNat 24 k.val) s) :: s.trace := by
  rcases tickFetch_cases k s with ⟨_, e⟩ | ⟨-, e⟩ <;> rw [e, fetchByte_eq] <;> rfl

theorem tickFetch_pace (k : Fin 10) (s : State) : (tickFetch k s).pace = s.pace := by
  rcases tickFetch_cases k s with ⟨_, e⟩ | ⟨-, e⟩ <;> rw [e, fetchByte_eq] <;> rfl

/-- Each step of the walker reads once, writes once, or uses no bus (R81). -/
theorem tick_trace_cases (s : State) : (tick s).trace = s.trace ∨ ∃ op, (tick s).trace = op :: s.trace := by
  rcases tick_cases s with ⟨-, e⟩ | ⟨k, -, e⟩ | ⟨-, e⟩ | ⟨-, e⟩ | ⟨-, -, e⟩ | ⟨-, -, e⟩ <;> rw [e]
  · exact .inl rfl
  · exact .inr ⟨_, tickFetch_trace k s⟩
  · exact .inr ⟨_, by rw [State.setWalker_trace, copyRead, State.setWork_trace, masterRead_trace]⟩
  · exact .inr ⟨_, by rw [State.setWalker_trace, copyWrite, State.setWork_trace, masterWrite_trace]⟩
  · exact .inl rfl
  · exact .inl rfl

/-- Settles O25, by the case the walker is in. -/
theorem engineStepHasAtMostOneBusOperation : Obligations.EngineStepHasAtMostOneBusOperation := tick_trace_cases

theorem tick_pace (s : State) : (tick s).pace = s.pace := by
  rcases tick_cases s with ⟨-, e⟩ | ⟨k, -, e⟩ | ⟨-, e⟩ | ⟨-, e⟩ | ⟨-, -, e⟩ | ⟨-, -, e⟩ <;> rw [e]
  · exact tickFetch_pace k s
  · simp
  · simp
  · rfl
  · rfl

theorem afterRecord_pace {s : State} (hs : s.walker = .fetch 0) : (afterRecord s).pace = s.pace := by
  rcases afterRecord_cases hs with ⟨-, e⟩ | ⟨-, e⟩ <;> simp [e]

/-- A port transaction in IDLE makes no bus operation and keeps the pace (R64, R75). -/
theorem exec_port_trace_pace {i : Instr} {s t : State} (hi : i.form = .pt) (hw : s.walker = .idle) (ht : exec i s = .next t) :
    t.trace = s.trace ∧ t.pace = s.pace := by
  rcases exec_port_of_idle hi hw with ⟨r, e⟩ | ⟨a, e⟩ | ⟨v, e⟩ | ⟨v, -, e⟩ <;>
    obtain rfl := Host.Outcome.next.inj (e.symm.trans ht) <;> exact ⟨rfl, rfl⟩

/-- An event makes no bus operation of the engine and keeps the pace (R81, R108). -/
theorem accept_trace_pace {e : Event} {s t : State} (hw : s.walker = .idle) (ht : accept e s = .next t) :
    t.trace = s.trace ∧ t.pace = s.pace := by
  rcases accept_cases e s with ⟨w, ea⟩ | ⟨r, ea⟩ | ⟨_, _, r, ea⟩ | ⟨a, v, r, ea⟩ | ⟨-, ea⟩ | ⟨-, ea⟩
  · exact exec_port_trace_pace (decodePT_form w) hw (ea.symm.trans ht)
  all_goals obtain rfl := Host.Outcome.next.inj (ea.symm.trans ht)
  · exact ⟨rfl, rfl⟩
  · exact ⟨rfl, rfl⟩
  · exact ⟨busWrite_trace a v s, busWrite_pace a v s⟩
  · exact ⟨rfl, rfl⟩
  · exact ⟨rfl, rfl⟩

theorem step_pace {s t : State} (ht : step s = .next t) : t.pace = s.pace := by
  rcases step_cases s with ⟨-, -, e⟩ | ⟨ev, es, hw, -, e⟩ | ⟨-, -, e⟩ | ⟨hw, -, e⟩
  · rw [← Host.Outcome.next.inj (e.symm.trans ht)]
  · exact (accept_trace_pace (s := s.setInputs es) hw (e.symm.trans ht)).2
  · rw [← Host.Outcome.next.inj (e.symm.trans ht), tick_pace]
  · rw [← Host.Outcome.next.inj (e.symm.trans ht), afterRecord_pace hw]

theorem step_trace_of_idle {s t : State} (hw : s.walker = .idle) (ht : step s = .next t) : t.trace = s.trace := by
  cases hin : s.inputs with
  | nil => rw [← Host.Outcome.next.inj ((step_of_waiting hw hin).symm.trans ht)]
  | cons e es => exact (accept_trace_pace (s := s.setInputs es) hw ((step_of_event hw hin).symm.trans ht)).1

theorem nextState_of_next {s t : State} (h : step s = .next t) : nextState s = t := by simp only [nextState, h]

theorem nextState_pace (s : State) : (nextState s).pace = s.pace := by
  cases h : step s with
  | next t => rw [nextState_of_next h, step_pace h]
  | fault r => simp only [nextState, h]
  | refused r => simp only [nextState, h]

theorem run_pace (n : Nat) (s : State) : (run n s).pace = s.pace := by
  induction n generalizing s with
  | zero => rfl
  | succ n ih => rw [run, ih, nextState_pace]

/-- Settles O59: the pace of reset stays over any run, and at that pace a BUSY step is one of the engine. -/
theorem stepsFromResetAreEngineSteps : Obligations.StepsFromResetAreEngineSteps := by
  refine ⟨rfl, fun s t => step_pace, fun s t => step_trace_of_idle, fun n es s hs hb => ⟨?_, tick_trace_cases s⟩⟩
  have hp : s.pace = .byBusOperation := by rw [hs, run_pace]; rfl
  exact step_of_tick hb hp

/-! ## The step modes -/

/-- Settles O26: addition and subtraction of 1 modulo 2^24. -/
theorem stepModesMoveTheCounter : Obligations.StepModesMoveTheCounter := by
  refine ⟨fun a => rfl, fun a => ?_, fun a => ?_⟩ <;> have ha := a.isLt <;>
    simp only [stepAddr, BitVec.toNat_add, BitVec.toNat_sub, BitVec.toNat_ofNat] <;> split <;> omega

/-! ## A record run whole -/

/-- In RAM pages a fetch is seen by no device (R38). -/
theorem fetchBytes_devLog_of_ram {s : State} (h : ∀ k : Fin 10, s.isRam (s.descAddr + BitVec.ofNat 24 k.val) = true) (n : Nat) :
    (fetchBytes n s).devLog = s.devLog := by
  induction n with
  | zero => rfl
  | succ n ih =>
    have hr : (fetchBytes n s).plat.slot ((fetchBytes n s).descAddr + BitVec.ofNat 24 (Fin.ofNat 10 n).val) = .ram := by
      simpa using h (Fin.ofNat 10 n)
    rw [fetchBytes, fetchByte_eq, afterRead_of_ram hr]
    exact ih

/-- A record that stands in RAM pages, fetched: the bytes in `desc_buf` and the ten reads in the trace, and nothing else (R83). -/
theorem fetchRecord_of_holds {s : State} {b : Vector Byte 10} (h : s.holdsRecord s.descAddr b) : fetchRecord s = { s with
    work := { s.work with descBuf := b, k := 9#4 }, trace := (fetchOps s.descAddr b).reverse ++ s.trace } := by
  obtain ⟨l, e⟩ := fetchRecord_eq s
  have hl : l = s.devLog := (congrArg State.devLog e).symm.trans (fetchBytes_devLog_of_ram (fun k => (h k).1) _)
  rw [e, record_eq_of_holds h, hl]

/-- Settles O17: the step executes the record fetched, which is the one that stands in RAM. -/
theorem stepRunsRecordAtDescAddr : Obligations.StepRunsRecordAtDescAddr := by
  intro s b hp hs hb
  rw [step_of_record hs hp, record_eq_of_holds hb, fetchRecord_of_holds hb]

/-- XFER is its copy loop, the advance and the next FETCH(0), the working registers apart (R91). -/
theorem exec_xfer_eq_copyLoop (d : Desc) {s : State} (hb : s.busy = true) : ∃ w, exec (.xfer d) s = .next
    { copyLoop d.readStep d.writeStep d.length.toNat d.readAddress d.writeAddress s with
      descAddr := s.descAddr + 10#24, walker := .fetch 0, work := w } := by
  obtain ⟨w, e⟩ := runRecord_eq_copyLoop d false s
  obtain ⟨hdesc, -⟩ := copyLoop_frame d.readStep d.writeStep d.length.toNat d.readAddress d.writeAddress s
  exact ⟨{ w with k := 0#4 }, by rw [exec_xfer_of_busy d hb, e, ← hdesc]; rfl⟩

/-- XFER.LAST is its copy loop, the advance and completion, the working registers and the draws apart (R92). -/
theorem exec_xferLast_eq_copyLoop (d : Desc) {s : State} (hb : s.busy = true) : ∃ w n, exec (.xferLast d) s = .next
    { copyLoop d.readStep d.writeStep d.length.toNat d.readAddress d.writeAddress s with
      descAddr := s.descAddr + 10#24, walker := .idle, pending := false, replies := .done :: s.replies, work := w, draws := n } := by
  obtain ⟨w, e⟩ := runRecord_eq_copyLoop d true s
  obtain ⟨hdesc, -, -, -, -, -, -, hreplies, -⟩ := copyLoop_frame d.readStep d.writeStep d.length.toNat d.readAddress d.writeAddress s
  exact ⟨_, _, by rw [exec_xferLast_of_busy d hb, e, ← hdesc, ← hreplies]; rfl⟩

/-- Settles O27: `is_last` clear makes a record XFER, and that is its copy loop and the next FETCH(0). -/
theorem xferRunsTheCopyLoopAndContinues : Obligations.XferRunsTheCopyLoopAndContinues :=
  ⟨fun _ hl => decodeDesc_eq_xfer_iff.mpr ⟨hl, rfl⟩, fun _ d hb => exec_xfer_eq_copyLoop d hb⟩

/-- Settles O28: `is_last` set makes a record XFER.LAST, and that is its copy loop and completion. -/
theorem xferLastRunsTheCopyLoopAndCompletes : Obligations.XferLastRunsTheCopyLoopAndCompletes :=
  ⟨fun _ hl => if_pos hl, fun _ d hb => exec_xferLast_eq_copyLoop d hb⟩

/-- Settles O30: a copy loop of no turns, and the branch of DECODE on the length. -/
theorem zeroLengthRecordCopiesNothing : Obligations.ZeroLengthRecordCopiesNothing := by
  refine ⟨fun s d hb hd => ?_, fun s hs hc => ?_⟩
  · have hxfer := exec_xfer_eq_copyLoop d hb
    have hxferLast := exec_xferLast_eq_copyLoop d hb
    rw [hd] at hxfer hxferLast
    exact ⟨hxfer, hxferLast⟩
  · rw [tick_of_fetch hs, tickFetch_nine, decodeRecord_eq] at hc ⊢
    exact if_pos hc

/-- What both descriptor instructions leave: `desc_addr` past the record, the RAM of the copy loop, and `clk`, the assembly, the inputs
and the pace as they were (R91, R92). -/
theorem exec_descriptor_of_busy {s : State} {d : Desc} {i : Instr} (hb : s.busy = true) (hi : i = .xfer d ∨ i = .xferLast d) :
    ∃ t, exec i s = .next t ∧ t.descAddr = s.descAddr + 10#24 ∧ t.clk = s.clk ∧ t.plat = s.plat ∧ t.inputs = s.inputs ∧
      t.pace = s.pace ∧ t.ram = (copyLoop d.readStep d.writeStep d.length.toNat d.readAddress d.writeAddress s).ram := by
  obtain ⟨-, hclk, -, -, -, hplat, hinputs, -, -, hpace⟩ :=
    copyLoop_frame d.readStep d.writeStep d.length.toNat d.readAddress d.writeAddress s
  rcases hi with rfl | rfl
  · obtain ⟨w, e⟩ := exec_xfer_eq_copyLoop d hb
    exact ⟨_, e, rfl, hclk, hplat, hinputs, hpace, rfl⟩
  · obtain ⟨w, n, e⟩ := exec_xferLast_eq_copyLoop d hb
    exact ⟨_, e, rfl, hclk, hplat, hinputs, hpace, rfl⟩

theorem State.peek_congr {s t : State} (h : t.ram = s.ram) (a : Addr) : t.peek a = s.peek a := by simp only [State.peek, h]

/-- Settles O29: the frame of the record run, and the copy loop leaves every byte it does not write. -/
theorem transferLeavesEverythingElseAlone : Obligations.TransferLeavesEverythingElseAlone := by
  intro s d i hb hwf hi
  obtain ⟨t, e, hdesc, hclk, hplat, hinputs, hpace, hram⟩ := exec_descriptor_of_busy hb hi
  refine ⟨t, e, hdesc, hclk, hplat, hinputs, hpace, fun a ha => ?_⟩
  rw [State.peek_congr hram, peek_copyLoop_of_not_written _ _ _ _ _ hwf ha]

/-! ## A record against the walker's state machine -/

theorem ticks_of_idle (n : Nat) {s : State} (hs : s.walker = .idle) : ticks n s = s := by
  induction n with
  | zero => rfl
  | succ n ih => rw [ticks, show tick s = s by simp only [tick, hs], ih]

/-- A walker that is BUSY after some steps was BUSY before them, since IDLE has no step (R81). -/
theorem busy_of_ticks_busy {m n : Nat} (hmn : m ≤ n) {s : State} (h : (ticks n s).busy = true) : (ticks m s).busy = true := by
  rw [busy_iff] at h ⊢
  intro hidle
  obtain ⟨j, rfl⟩ := Nat.exists_eq_add_of_le hmn
  rw [ticks_add, ticks_of_idle j hidle] at h
  exact h hidle

/-- All steps of a record but the last lead to ADVANCE (R83 to R87). -/
theorem ticks_walker_advance {s : State} (hs : s.walker = .fetch 0) :
    (ticks (10 + 2 * (recordDesc s.record).length.toNat) s).walker = .advance := by
  rw [ticks_add, ticks_ten hs]
  exact congrArg State.walker (ticks_of_decodeRecord (fetchRecord s))

theorem ticks_busy_in_record {s : State} (hs : s.walker = .fetch 0) {m : Nat} (hm : m < recordTicks s) : (ticks m s).busy = true := by
  have hlast := (busy_iff _).mpr (by rw [ticks_walker_advance hs]; exact Walker.noConfusion)
  exact busy_of_ticks_busy (by rw [recordTicks] at hm; omega) hlast

/-- At the pace of R81 as many steps of the machine are as many steps of the engine, while it is BUSY. -/
theorem run_eq_ticks (n : Nat) {s : State} (hp : s.pace = .byBusOperation) (hb : ∀ m < n, (ticks m s).busy = true) :
    run n s = ticks n s := by
  induction n generalizing s with
  | zero => rfl
  | succ n ih =>
    have hstep : step s = .next (tick s) := step_of_tick (hb 0 (by omega)) hp
    rw [run, nextState_of_next hstep, ticks]
    exact ih (by rw [tick_pace, hp]) fun m hm => hb (m + 1) (by omega)

/-- Settles O33: the record's steps end in what its instruction leaves, and the walker is at ADVANCE before the last of them. -/
theorem recordStepRefinesTheStateMachine : Obligations.RecordStepRefinesTheStateMachine := by
  intro s hs
  have hbusy (m : Nat) (hm : m < recordTicks s) := ticks_busy_in_record hs hm
  have hexec : exec (decodeDesc s.record) (fetchRecord s) = .next (ticks (recordTicks s) s) := by
    rw [exec_record hs, ticks_recordTicks hs]
  refine ⟨hexec, hbusy, fun hp => ?_, fun hp => (step_of_record hs hp).symm⟩
  exact hexec.trans (congrArg _ (run_eq_ticks _ hp hbusy).symm)

/-! ## Chains -/

theorem walk_succ (n : Nat) (s : State) : walk (n + 1) s = afterRecord (walk n s) := by
  induction n generalizing s with
  | zero => rfl
  | succ n ih => rw [walk, ih]; rfl

theorem afterRecord_descAddr {s : State} (hs : s.walker = .fetch 0) : (afterRecord s).descAddr = s.descAddr + 10#24 := by
  rcases afterRecord_cases hs with ⟨-, e⟩ | ⟨-, e⟩ <;> simp [e]

theorem walk_descAddr (n : Nat) {s : State} (h : ∀ m < n, (walk m s).walker = .fetch 0) :
    (walk n s).descAddr = s.descAddr + BitVec.ofNat 24 (10 * n) := by
  induction n with
  | zero => simp [walk]
  | succ n ih =>
    rw [walk_succ, afterRecord_descAddr (h n (by omega)), ih fun m hm => h m (by omega), BitVec.add_assoc, Nat.mul_succ, BitVec.ofNat_add]

theorem getLsbD_zero_add_ten_mul (a : Addr) (n : Nat) : (a + BitVec.ofNat 24 (10 * n)).getLsbD 0 = a.getLsbD 0 := by
  simp only [BitVec.getLsbD, Nat.testBit_zero, BitVec.toNat_add, BitVec.toNat_ofNat]
  congr 2
  omega

/-- Settles O36: each record moves `desc_addr` by 10, an even number, and so is the modulus. -/
theorem chainAdvancesTenByTen : Obligations.ChainAdvancesTenByTen := by
  intro n s h
  rw [walk_descAddr n h]
  exact ⟨rfl, getLsbD_zero_add_ten_mul _ n⟩

theorem afterRecord_of_last {s : State} (hs : s.walker = .fetch 0) (hl : recordLast s.record = true) :
    (afterRecord s).walker = .idle ∧ (afterRecord s).pending = false ∧ (afterRecord s).replies = .done :: s.replies := by
  simp [afterRecord_of_fetch hs, hl]

theorem afterRecord_of_not_last {s : State} (hs : s.walker = .fetch 0) (hl : recordLast s.record = false) :
    (afterRecord s).walker = .fetch 0 ∧ (afterRecord s).pending = s.pending ∧ (afterRecord s).replies = s.replies ∧
    (afterRecord s).inputs = s.inputs := by
  simp [afterRecord_of_fetch hs, hl]

/-- A chain goes on over records that are not the last (R90). -/
theorem walk_of_not_last (n : Nat) {s : State} (hs : s.walker = .fetch 0) (hl : ∀ m < n, recordLast (walk m s).record = false) :
    (walk n s).walker = .fetch 0 ∧ (walk n s).pending = s.pending ∧ (walk n s).replies = s.replies ∧
    (walk n s).inputs = s.inputs := by
  induction n with
  | zero => exact ⟨hs, rfl, rfl, rfl⟩
  | succ n ih =>
    obtain ⟨hw, hp, hr, hi⟩ := ih fun m hm => hl m (by omega)
    obtain ⟨hw', hp', hr', hi'⟩ := afterRecord_of_not_last hw (hl n (by omega))
    rw [walk_succ]
    exact ⟨hw', hp'.trans hp, hr'.trans hr, hi'.trans hi⟩

theorem tickFetch_walker_ne_idle (k : Fin 10) (s : State) : (tickFetch k s).walker ≠ .idle := by
  rcases tickFetch_cases k s with ⟨_, e⟩ | ⟨-, e⟩
  · simp [e]
  · rcases decodeRecord_cases (fetchByte k s) with ⟨-, e'⟩ | ⟨-, e'⟩ <;> simp [e, e']

/-- A BUSY walker gets to IDLE in ADVANCE of a last record only (R89). -/
theorem tick_walker_idle_iff {s : State} (hb : s.busy = true) : (tick s).walker = .idle ↔ s.walker = .advance ∧ s.work.last = true := by
  rcases tick_cases s with ⟨hw, -⟩ | ⟨k, hw, e⟩ | ⟨hw, e⟩ | ⟨hw, e⟩ | ⟨hw, hl, e⟩ | ⟨hw, hl, e⟩
  · exact absurd hw ((busy_iff s).mp hb)
  · simp [hw, e, tickFetch_walker_ne_idle]
  · simp [hw, e]
  · rw [e, State.setWalker_walker, hw]; split <;> simp
  · simp [hl, e]
  · simp [hw, hl, e]

/-- Settles O35: by `is_last` of the records fetched, and by the steps of the engine. -/
theorem transferEndsOnlyAfterALastRecord : Obligations.TransferEndsOnlyAfterALastRecord := by
  refine ⟨fun s hs hl => afterRecord_of_last hs hl, fun n s hs hl => ?_, fun s hb => tick_walker_idle_iff hb⟩
  obtain ⟨hw, hp, hr, hi⟩ := walk_of_not_last n hs hl
  exact ⟨hw, hp, hr, hi, walk_descAddr n fun m hm => (walk_of_not_last m hs fun j hj => hl j (by omega)).1⟩

/-- The bus operations of the copy loop: each byte read and then written, for the bytes it read (R82). -/
theorem copyLoop_trace (rs ws : StepMode) (n : Nat) (rd wr : Addr) (s : State) : ∃ vs : List Byte, vs.length = n ∧
    (copyLoop rs ws n rd wr s).trace = (copyOps rs ws rd wr vs).reverse ++ s.trace := by
  induction n generalizing rd wr s with
  | zero => exact ⟨[], rfl, rfl⟩
  | succ n ih =>
    obtain ⟨vs, hlen, e⟩ := ih (stepAddr rs rd) (stepAddr ws wr) (masterWrite wr (busValue rd s) (masterRead rd s))
    exact ⟨busValue rd s :: vs, by rw [List.length_cons, hlen], by simp [copyLoop, e, copyOps]⟩

theorem runRecord_trace (d : Desc) (last : Bool) (s : State) : ∃ vs : List Byte, vs.length = d.length.toNat ∧
    (runRecord d last s).trace = (copyOps d.readStep d.writeStep d.readAddress d.writeAddress vs).reverse ++ s.trace := by
  obtain ⟨w, e⟩ := runRecord_eq_copyLoop d last s
  rw [e]
  exact copyLoop_trace d.readStep d.writeStep d.length.toNat d.readAddress d.writeAddress s

/-- Going on and completing make no bus operation (R88, R89). -/
theorem afterRecord_trace_eq {s : State} (hs : s.walker = .fetch 0) :
    (afterRecord s).trace = (runRecord (recordDesc s.record) (recordLast s.record) (fetchRecord s)).trace := by
  rcases afterRecord_cases hs with ⟨hl, e⟩ | ⟨hl, e⟩ <;> simp [e, hl]

/-- The bus operations of a record: its ten fetch reads, then those of its copy (R82). -/
theorem afterRecord_trace {s : State} (hs : s.walker = .fetch 0) : ∃ vs : List Byte, vs.length = (recordDesc s.record).length.toNat ∧
    (afterRecord s).trace = (s.recordOps vs).reverse ++ s.trace := by
  obtain ⟨l, hf⟩ := fetchRecord_eq s
  have hfetch : (fetchRecord s).trace = (fetchOps s.descAddr s.record).reverse ++ s.trace := congrArg State.trace hf
  obtain ⟨vs, hlen, e⟩ := runRecord_trace (recordDesc s.record) (recordLast s.record) (fetchRecord s)
  refine ⟨vs, hlen, ?_⟩
  rw [afterRecord_trace_eq hs, e, hfetch, State.recordOps, List.reverse_append, List.append_assoc]

/-- The bus operations of a chain, given for each record the bytes its copy reads (R82). -/
theorem walk_trace (n : Nat) {s : State} {f : Nat → List Byte}
    (h : ∀ m < n, (afterRecord (walk m s)).trace = ((walk m s).recordOps (f m)).reverse ++ (walk m s).trace) :
    (walk n s).trace = ((List.range n).flatMap (fun m => (walk m s).recordOps (f m))).reverse ++ s.trace := by
  induction n with
  | zero => rfl
  | succ n ih =>
    rw [walk_succ, h n (by omega), ih fun m hm => h m (by omega)]
    simp [List.range_succ]

/-- Settles O32: the bytes each record's copy reads give its operations, and a chain makes those of its records in turn. -/
theorem busOperationsOfAChainInOrder : Obligations.BusOperationsOfAChainInOrder := by
  intro n s h
  have hrecord (m : Nat) : ∃ vs : List Byte, m < n → vs.length = (recordDesc (walk m s).record).length.toNat ∧
      (afterRecord (walk m s)).trace = ((walk m s).recordOps vs).reverse ++ (walk m s).trace := by
    by_cases hm : m < n
    · obtain ⟨vs, hvs⟩ := afterRecord_trace (h m hm)
      exact ⟨vs, fun _ => hvs⟩
    · exact ⟨[], fun hm' => absurd hm' hm⟩
  choose f hf using hrecord
  exact ⟨f, fun m hm => ⟨(hf m hm).1, walk_descAddr m fun j hj => h j (by omega)⟩, walk_trace n fun m hm => (hf m hm).2⟩

/-! ## What a copy leaves in memory -/

/-- A descriptor instruction leaves in RAM what its copy loop leaves (R91, R92). -/
theorem exec_descriptor_peek {s : State} {d : Desc} {i : Instr} (hb : s.busy = true) (hi : i = .xfer d ∨ i = .xferLast d) :
    ∃ t, exec i s = .next t ∧
      ∀ a, t.peek a = (copyLoop d.readStep d.writeStep d.length.toNat d.readAddress d.writeAddress s).peek a := by
  obtain ⟨t, e, -, -, -, -, -, hram⟩ := exec_descriptor_of_busy hb hi
  exact ⟨t, e, State.peek_congr hram⟩

/-- Settles O38: no write changes a byte still to be read, and each destination keeps its last write. -/
theorem copyClosedFormForEveryMode : Obligations.CopyClosedFormForEveryMode := by
  intro s d i hb hwf hi hrd hwr hapart
  obtain ⟨t, e, hpeek⟩ := exec_descriptor_peek hb hi
  refine ⟨t, e, fun j hj hlast => ?_⟩
  rw [hpeek]
  exact peek_copyLoop_of_written _ _ hj _ _ hwf (hrd j hj) (hwr j hj) (fun k hk => (hapart j hj k (by omega)).symm) hlast

/-- 4 MiB of addresses in a row reach every physical byte (R37). -/
theorem exists_physOf_add_eq (a b : Addr) : ∃ k < 4194304, physOf (b + BitVec.ofNat 24 k) = physOf a := by
  refine ⟨(a - b).toNat % 4194304, Nat.mod_lt _ (by decide), BitVec.eq_of_toNat_eq ?_⟩
  rw [physOf_add_toNat, physOf_toNat, BitVec.toNat_sub]
  omega

/-- A range no byte of which is `a` is shorter than 4 MiB (R37). -/
theorem length_le_of_not_reached {a b : Addr} {n : Nat} (h : ∀ k < n, physOf a ≠ physOf (b + BitVec.ofNat 24 k)) : n ≤ 4194304 := by
  obtain ⟨k, hk, e⟩ := exists_physOf_add_eq a b
  by_contra hn
  exact h k (by omega) e.symm

/-- Settles O39: ranges apart are shorter than 4 MiB, so no destination byte is written twice. -/
theorem forwardCopyIsByteForByte : Obligations.ForwardCopyIsByteForByte := by
  intro s d i hb hwf hi hrs hws hpos hram hapart
  obtain ⟨t, e, hpeek⟩ := exec_descriptor_peek hb hi
  rw [hrs, hws] at hpeek
  have hlen : d.length.toNat ≤ 4194304 := length_le_of_not_reached (hapart 0 hpos)
  refine ⟨t, e, fun j hj => ?_, fun a ha => ?_⟩
  · rw [hpeek, peek_copyLoop_increment hlen _ _ hwf hram hapart hj]
  · rw [hpeek, peek_copyLoop_of_not_written _ _ _ _ _ hwf fun j hj => ?_]
    rw [stepMany_increment]
    exact (ha j hj).symm

/-- The last turn of a copy between RAM bytes: it writes the byte its source then holds (R82). -/
theorem peek_copyLoop_succ (rs ws : StepMode) (n : Nat) (rd wr : Addr) {s : State} (hw : s.ram.wf = true)
    (hrd : s.isRam (stepMany rs n rd) = true) (hwr : s.isRam (stepMany ws n wr) = true) (b : Addr) :
    (copyLoop rs ws (n + 1) rd wr s).peek b = if physOf (stepMany ws n wr) = physOf b
      then (copyLoop rs ws n rd wr s).peek (stepMany rs n rd) else (copyLoop rs ws n rd wr s).peek b := by
  have hwf : (copyLoop rs ws n rd wr s).ram.wf = true := copyLoop_ram_wf rs ws n rd wr hw
  have hslot {a : Addr} (ha : s.isRam a = true) : (copyLoop rs ws n rd wr s).plat.slot a = .ram := by
    rw [copyLoop_plat]; exact (s.isRam_iff a).mp ha
  rw [copyLoop_add, copyLoop, copyLoop, peek_masterWrite_of_ram (by simpa using hslot hwr) (by simpa using hwf),
    busValue_of_ram (hslot hrd), peek_masterRead]

/-- Each turn of a forward copy onto the next byte up passes the first byte on (R100). -/
theorem peek_copyLoop_next_up (n : Nat) (hn : n < 2 ^ 22) (rd : Addr) {s : State} (hw : s.ram.wf = true)
    (hram : ∀ j ≤ n, s.isRam (rd + BitVec.ofNat 24 j) = true) {j : Nat} (hj : j ≤ n) :
    (copyLoop .increment .increment n rd (rd + 1#24) s).peek (rd + BitVec.ofNat 24 j) = s.peek rd := by
  have hdest (m : Nat) : stepMany .increment m (rd + 1#24) = rd + BitVec.ofNat 24 (m + 1) := by
    rw [stepMany_increment, BitVec.add_assoc, ← BitVec.ofNat_add, Nat.add_comm]
  induction n generalizing j with
  | zero =>
    obtain rfl : j = 0 := Nat.le_zero.mp hj
    simp [copyLoop]
  | succ n ih =>
    have ih' {k : Nat} (hk : k ≤ n) := ih (by omega) (fun i hi => hram i (by omega)) hk
    rw [peek_copyLoop_succ _ _ n rd _ hw (by rw [stepMany_increment]; exact hram n (by omega))
      (by rw [hdest]; exact hram (n + 1) (by omega)), hdest, stepMany_increment]
    rcases Nat.le_succ_iff.mp hj with hjn | rfl
    · rw [if_neg (physOf_add_ne (by omega) (by omega)), ih' hjn]
    · rw [if_pos rfl, ih' (Nat.le_refl n)]

/-- Settles O40, by induction on the bytes copied. -/
theorem forwardOverlapPropagatesTheFirstByte : Obligations.ForwardOverlapPropagatesTheFirstByte := by
  intro s d i hb hwf hi hrs hws hwr hlen hram
  obtain ⟨t, e, hpeek⟩ := exec_descriptor_peek hb hi
  rw [hrs, hws, hwr] at hpeek
  exact ⟨t, e, fun j hj => by rw [hpeek, peek_copyLoop_next_up _ hlen _ hwf hram hj]⟩

/-- Settles O41: the bytes written before a byte is read lie below it, and each destination is written once. -/
theorem forwardCopyDownIsExact : Obligations.ForwardCopyDownIsExact := by
  intro s d i g hb hwf hi hrs hws hrd hg hlen hram
  obtain ⟨t, e, hpeek⟩ := exec_descriptor_peek hb hi
  have hsource (j : Nat) : d.readAddress + BitVec.ofNat 24 j = d.writeAddress + BitVec.ofNat 24 (g + j) := by
    rw [hrd, BitVec.add_assoc, BitVec.ofNat_add]
  refine ⟨t, e, fun j hj => ?_⟩
  have hcopy := peek_copyLoop_of_written .increment .increment hj d.readAddress d.writeAddress hwf
  simp only [stepMany_increment, hsource] at hcopy
  rw [hpeek, hrs, hws, hsource]
  exact hcopy (hram _ (by omega)) (hram _ (by omega)) (fun k hk => (physOf_add_ne (by omega) (by omega)).symm)
    fun k hjk hk => physOf_add_ne hjk (by omega)

/-- A byte written back where it was read changes no byte of RAM, whatever the page (R44; log entry 5). -/
theorem peek_copy_onto_itself {s : State} (hw : s.ram.wf = true) (a b : Addr) :
    (masterWrite a (busValue a s) (masterRead a s)).peek b = s.peek b := by
  cases hs : s.plat.slot a with
  | ram =>
    rw [peek_masterWrite_of_ram (by simpa using hs) (by simpa using hw), busValue_of_ram hs, peek_masterRead]
    split
    · next h => simp only [State.peek, h]
    · rfl
  | unbound =>
    rw [masterWrite, busWrite_of_unbound _ (by simpa using hs)]
    exact peek_masterRead a b s
  | external dev =>
    rw [masterWrite, busWrite_of_external _ (by simpa using hs)]
    exact peek_masterRead a b s

theorem peek_copyLoop_onto_itself (m : StepMode) (n : Nat) (a : Addr) {s : State} (hw : s.ram.wf = true) (b : Addr) :
    (copyLoop m m n a a s).peek b = s.peek b := by
  induction n generalizing a s with
  | zero => rfl
  | succ n ih => rw [copyLoop, ih _ (masterWrite_ram_wf _ _ (by simpa using hw)), peek_copy_onto_itself hw]

/-- Settles O42: every byte is written back where it was read. -/
theorem copyOntoItselfChangesNoByte : Obligations.CopyOntoItselfChangesNoByte := by
  intro s d i hb hwf hi haddr hstep
  obtain ⟨t, e, hpeek⟩ := exec_descriptor_peek hb hi
  rw [haddr, hstep] at hpeek
  exact ⟨t, e, fun a => by rw [hpeek, peek_copyLoop_onto_itself _ _ _ hwf]⟩

end Sys2Proof.Machine

/-! PROOFS. Exceptions (60_exceptions.md): there are none. No instruction, no event and no step ends in a fault or a refusal, so every run
goes on. -/

namespace Sys2Proof.Machine

/-- Every instruction goes on: held, or doing its work in the state it is for, IDLE for a port transaction and BUSY for a record (R103). -/
theorem exec_goesOn (i : Instr) (s : State) : ∃ t, exec i s = .next t := by
  by_cases hw : s.walker = .idle
  · cases hi : i.form with
    | pt => rcases exec_port_of_idle hi hw with ⟨_, e⟩ | ⟨_, e⟩ | ⟨_, e⟩ | ⟨_, -, e⟩ <;> exact ⟨_, e⟩
    | desc => exact ⟨s, transactionHeldWhileBusyAndRecordWhileIdle.2 i s hi hw⟩
  · have hb : s.busy = true := (busy_iff s).mpr hw
    cases i with
    | xfer d => exact ⟨_, exec_xfer_of_busy d hb⟩
    | xferLast d => exact ⟨_, exec_xferLast_of_busy d hb⟩
    | _ => exact ⟨s, exec_port_of_busy rfl hb⟩

/-- Every event of the outside is handled, an access where nothing is bound included (R39, R40, R103). -/
theorem accept_goesOn (e : Event) (s : State) : ∃ t, accept e s = .next t := by
  rcases accept_cases e s with ⟨w, h⟩ | ⟨_, h⟩ | ⟨_, _, _, h⟩ | ⟨_, _, _, h⟩ | ⟨-, h⟩ | ⟨-, h⟩
  · exact h ▸ exec_goesOn (decodePT w) s
  all_goals exact ⟨_, h⟩

/-- Every kind of step goes on: a wait, an event, a step of the engine, a whole record (R103). -/
theorem step_goesOn (s : State) : ∃ t, step s = .next t := by
  rcases step_cases s with ⟨-, -, h⟩ | ⟨e, es, -, -, h⟩ | ⟨-, -, h⟩ | ⟨-, -, h⟩
  · exact ⟨_, h⟩
  · exact h ▸ accept_goesOn e (s.setInputs es)
  · exact ⟨_, h⟩
  · exact ⟨_, h⟩

/-- A run of any length from any state is safe, one that hangs in a chain without a last record included (R104). -/
theorem runsSafely_always (n : Nat) (s : State) : runsSafely n s := by
  induction n generalizing s with
  | zero => trivial
  | succ n ih =>
    obtain ⟨t, ht⟩ := step_goesOn s
    exact ⟨t, ht, ih t⟩

/-- Settles O46: every instruction goes on, and so does every step, whence every run. -/
theorem noExceptionIsEverRaised : Obligations.NoExceptionIsEverRaised := ⟨exec_goesOn, runsSafely_always⟩

end Sys2Proof.Machine

/-! PROOFS. Reset and hazards (70_reset_and_hazards.md): the two reset events, what takes an IDLE engine to BUSY, how many steps a chain takes,
and the chain in blank memory, which never ends. -/

namespace Sys2Proof.Machine

/-! ## Init and reset -/

/-- Settles O1, field by field. -/
theorem resetStateIsAfterInit : Obligations.ResetStateIsAfterInit := ⟨rfl, rfl, rfl, rfl⟩

/-- Settles O2: the event is handled by `initEvent`, which draws new working registers. -/
theorem initEventSetsInitValues : Obligations.InitEventSetsInitValues := fun s _ hw hi =>
  ⟨Work.free s.draws, s.draws + 1, step_of_event hw hi⟩

/-- Settles O3: the event is handled by `resetEvent`, which draws new working registers. -/
theorem resetEventKeepsDescAddr : Obligations.ResetEventKeepsDescAddr := fun s _ hw hi =>
  ⟨Work.free s.draws, s.draws + 1, step_of_event hw hi⟩

/-! ## What an IDLE machine does -/

/-- Settles O15. -/
theorem idleMachineWaits : Obligations.IdleMachineWaits := fun _ hw hi => step_of_waiting hw hi

/-- Two PT words are equal exactly when their selectors and their data bytes are (R52). -/
theorem ptAppend_inj {c d : BitVec 4} {u v : Byte} : c ++ u = d ++ v ↔ c = d ∧ u = v := by
  refine ⟨fun h => ⟨?_, ?_⟩, fun ⟨hc, hv⟩ => by rw [hc, hv]⟩
  · rw [← ptSelector c u, h, ptSelector]
  · rw [← ptData c u, h, ptData]

/-- The selector 0xC is a write at offset 4 (R52, R61). -/
theorem eq_four_of_ctrlSelector {off : BitVec 3} (h : 1#1 ++ off = 0xC#4) : off = 4#3 := by revert off; decide

/-- The start write is selector 0xC with bit 0 of the data set, and no other PT word is one (R61, R75). -/
theorem decodePT_eq_wrCtrlStart_iff {w : BitVec 12} {v : Byte} :
    decodePT w = .wrCtrlStart v ↔ w = 0xC#4 ++ v ∧ v.getLsbD 0 = true := by
  refine ⟨fun h => ?_, fun ⟨hw, hv⟩ => hw ▸ decodePT_wrCtrlStart hv⟩
  obtain ⟨c, u, rfl⟩ := ptSplit w
  by_cases hc : c = 0xC#4
  · rw [hc, decodePT_wrCtrl] at h
    split at h
    · obtain rfl := Instr.wrCtrlStart.inj h
      exact ⟨by rw [hc], ‹_›⟩
    · cases h
  · cases h3 : c.getLsbD 3 with
    | true => rcases writeSelector_cases c h3 with rfl | rfl | rfl | rfl | rfl | rfl | rfl | rfl <;> simp at h hc
    | false => rcases readSelector_cases c h3 with rfl | rfl | rfl | rfl | rfl | rfl | rfl | rfl <;> simp at h

/-- The one port transaction that makes an IDLE engine BUSY is the start write (R75, R120). -/
theorem exec_port_starts {i : Instr} {s t : State} (hi : i.form = .pt) (hw : s.walker = .idle) (ht : exec i s = .next t)
    (hb : t.busy = true) : t = startTransfer s ∧ ∃ v, i = .wrCtrlStart v := by
  have hbusy := (busy_iff t).mp hb
  rcases exec_port_of_idle hi hw with ⟨r, e⟩ | ⟨a, e⟩ | ⟨v, e⟩ | ⟨v, hv, e⟩ <;> obtain rfl := Host.Outcome.next.inj (e.symm.trans ht)
  · exact absurd hw hbusy
  · exact absurd hw hbusy
  · exact absurd hw hbusy
  · exact ⟨rfl, v, hv⟩

/-- A PT word that makes an IDLE engine BUSY is a control write with bit 0 set (R75, R120). -/
theorem exec_decodePT_starts {w : BitVec 12} {s t : State} (hw : s.walker = .idle) (ht : exec (decodePT w) s = .next t)
    (hb : t.busy = true) : t = startTransfer s ∧ ∃ v : Byte, w = 0xC#4 ++ v ∧ v.getLsbD 0 = true := by
  obtain ⟨e, v, hv⟩ := exec_port_starts (decodePT_form w) hw ht hb
  exact ⟨e, v, decodePT_eq_wrCtrlStart_iff.mp hv⟩

/-- No read of a port makes an IDLE engine BUSY: a read of the engine's registers carries the data byte 0 (R69, R120). -/
theorem ioRead_not_busy {p : Byte} {s t : State} (hw : s.walker = .idle) (ht : ioRead p s = .next t) : t.walker = .idle := by
  by_contra hidle
  cases hr : s.plat.route p with
  | engine off =>
    obtain ⟨-, v, hv, h0⟩ := exec_decodePT_starts hw ((ioRead_of_engine hr).symm.trans ht) ((busy_iff t).mpr hidle)
    obtain ⟨-, rfl⟩ := ptAppend_inj.mp hv
    exact absurd h0 (by decide)
  | external dev =>
    obtain rfl := Host.Outcome.next.inj ((ioRead_of_external hr).symm.trans ht)
    exact hidle hw
  | unbound =>
    obtain rfl := Host.Outcome.next.inj ((ioRead_of_unbound hr).symm.trans ht)
    exact hidle hw

/-- A port write that makes an IDLE engine BUSY is one to the control register, with bit 0 set (R42, R75, R120). -/
theorem ioWrite_starts {p u : Byte} {s t : State} (hw : s.walker = .idle) (ht : ioWrite p u s = .next t) (hb : t.busy = true) :
    t = startTransfer s ∧ u.getLsbD 0 = true ∧ p.toNat = s.plat.ioBase.val + 4 := by
  have hbusy := (busy_iff t).mp hb
  cases hr : s.plat.route p with
  | engine off =>
    obtain ⟨e, v, hv, h0⟩ := exec_decodePT_starts hw ((ioWrite_of_engine u hr).symm.trans ht) hb
    obtain ⟨hoff, rfl⟩ := ptAppend_inj.mp hv
    obtain rfl := eq_four_of_ctrlSelector hoff
    exact ⟨e, h0, (Platform.route_eq_engine_iff.mp hr).2⟩
  | external dev =>
    obtain rfl := Host.Outcome.next.inj ((ioWrite_of_external u hr).symm.trans ht)
    exact absurd hw hbusy
  | unbound =>
    obtain rfl := Host.Outcome.next.inj ((ioWrite_of_unbound u hr).symm.trans ht)
    exact absurd hw hbusy

/-- The one event that makes an IDLE engine BUSY is a control write with bit 0 set, as a PT word or to port `DMA_IO_BASE` + 4 (R75, R120). -/
theorem accept_starts {e : Event} {s t : State} (hw : s.walker = .idle) (ht : accept e s = .next t) (hb : t.busy = true) :
    t = startTransfer s ∧ ∃ v : Byte, v.getLsbD 0 = true ∧
      (e = .pt (0xC#4 ++ v) ∨ ∃ p, e = .ioWrite p v ∧ p.toNat = s.plat.ioBase.val + 4) := by
  have hbusy := (busy_iff t).mp hb
  cases e with
  | pt w =>
    obtain ⟨et, v, rfl, hv⟩ := exec_decodePT_starts hw ht hb
    exact ⟨et, v, hv, .inl rfl⟩
  | ioRead p => exact absurd (ioRead_not_busy hw ht) hbusy
  | ioWrite p v =>
    obtain ⟨et, hv, hp⟩ := ioWrite_starts hw ht hb
    exact ⟨et, v, hv, .inr ⟨p, rfl, hp⟩⟩
  | memRead a =>
    obtain rfl := Host.Outcome.next.inj ht
    exact absurd ((afterRead_walker a s).trans hw) hbusy
  | memWrite a v =>
    obtain rfl := Host.Outcome.next.inj ht
    exact absurd ((busWrite_walker a v s).trans hw) hbusy
  | init => exact absurd (by rw [← Host.Outcome.next.inj ht]; rfl) hbusy
  | reset => exact absurd (by rw [← Host.Outcome.next.inj ht]; rfl) hbusy

/-- Settles O14: a waiting machine stays IDLE, and of the events one kind starts a transfer. -/
theorem onlyStartWriteLeavesIdle : Obligations.OnlyStartWriteLeavesIdle := by
  intro s t hw ht hb
  cases hin : s.inputs with
  | nil =>
    obtain rfl := Host.Outcome.next.inj ((step_of_waiting hw hin).symm.trans ht)
    exact absurd hw ((busy_iff s).mp hb)
  | cons e es =>
    obtain ⟨rfl, v, hv, he⟩ := accept_starts (s := s.setInputs es) hw ((step_of_event hw hin).symm.trans ht) hb
    refine ⟨rfl, rfl, rfl, v, es, hv, ?_⟩
    rcases he with rfl | ⟨p, rfl, hp⟩
    · exact .inl rfl
    · exact .inr ⟨p, rfl, hp⟩

/-! ## The steps of a chain -/

/-- The steps of a chain's records, one record after the other, lead to the state after them (R132). -/
theorem ticks_chainTicks (n : Nat) {s : State} (h : ∀ m < n, (walk m s).walker = .fetch 0) : ticks (chainTicks n s) s = walk n s := by
  induction n generalizing s with
  | zero => rfl
  | succ n ih =>
    have hs : s.walker = .fetch 0 := h 0 (by omega)
    rw [chainTicks, ticks_add, ticks_recordTicks hs, ih fun m hm => h (m + 1) (by omega), walk]

/-- Before the last step of a chain's last record the engine is BUSY (R132). -/
theorem ticks_busy_in_chain (n : Nat) {s : State} (h : ∀ m < n, (walk m s).walker = .fetch 0) {m : Nat} (hm : m < chainTicks n s) :
    (ticks m s).busy = true := by
  induction n generalizing s m with
  | zero => exact absurd hm (Nat.not_lt_zero m)
  | succ n ih =>
    have hs : s.walker = .fetch 0 := h 0 (by omega)
    rw [chainTicks] at hm
    by_cases hfirst : m < recordTicks s
    · exact ticks_busy_in_record hs hfirst
    · obtain ⟨j, rfl⟩ := Nat.exists_eq_add_of_le (Nat.le_of_not_lt hfirst)
      rw [ticks_add, ticks_recordTicks hs]
      exact ih (fun m hm => h (m + 1) (by omega)) (by omega)

/-- Settles O34: the engine is BUSY all through the chain, so a step of the machine at the pace of R81 is one of the engine. -/
theorem chainTakesItsStepCount : Obligations.ChainTakesItsStepCount := by
  intro n s _ h
  have hbusy (m : Nat) (hm : m < chainTicks n s) := ticks_busy_in_chain n h hm
  exact ⟨ticks_chainTicks n h, hbusy, fun hp => (run_eq_ticks _ hp hbusy).trans (ticks_chainTicks n h)⟩

/-! ## A chain in blank memory -/

/-- Every page is RAM, and no byte has been written. -/
structure State.AllBlank (s : State) : Prop where
  isRam : ∀ a, s.isRam a = true
  ram : s.ram = []

/-- In blank memory the walker fetches a record of zeros, wherever `desc_addr` points (R130). -/
theorem record_of_allBlank {s : State} (h : s.AllBlank) : s.record = Vector.replicate 10 0#8 := by
  refine record_eq_of_holds fun k => ⟨h.isRam _, ?_⟩
  simp [State.peek, h.ram, Memory.read, Memory.blank]

/-- A record of zeros is not the last (R56, R130). -/
theorem recordLast_of_allBlank {s : State} (h : s.AllBlank) : recordLast s.record = false := by
  rw [record_of_allBlank h]; rfl

/-- A record of zeros copies nothing, so memory stays blank (R98, R130). -/
theorem afterRecord_allBlank {s : State} (hs : s.walker = .fetch 0) (h : s.AllBlank) : (afterRecord s).AllBlank := by
  have hlen : (recordDesc s.record).length.toNat = 0 := by rw [record_of_allBlank h]; rfl
  have e : afterRecord s = nextRecord (bumpDescAddr (latch (recordDesc s.record) false (fetchRecord s))) := by
    rw [afterRecord_of_fetch hs, recordLast_of_allBlank h, if_neg Bool.false_ne_true, runRecord, hlen, copyBytes]
  rw [e]
  exact ⟨fun a => by simpa using h.isRam a, by simpa using h.ram⟩

/-- A walker started in blank memory goes on from record to record, and memory stays blank (R130). -/
theorem walk_allBlank (n : Nat) {s : State} (hs : s.walker = .fetch 0) (h : s.AllBlank) :
    (walk n s).walker = .fetch 0 ∧ (walk n s).AllBlank := by
  induction n with
  | zero => exact ⟨hs, h⟩
  | succ n ih =>
    obtain ⟨hw, hblank⟩ := ih
    rw [walk_succ]
    exact ⟨(afterRecord_of_not_last hw (recordLast_of_allBlank hblank)).1, afterRecord_allBlank hw hblank⟩

/-- At the pace of R79 as many steps of the machine are as many records, while the walker stands at FETCH(0) (log entry 1). -/
theorem run_eq_walk (n : Nat) {s : State} (hp : s.pace = .byRecord) (h : ∀ m < n, (walk m s).walker = .fetch 0) : run n s = walk n s := by
  induction n generalizing s with
  | zero => rfl
  | succ n ih =>
    have hs : s.walker = .fetch 0 := h 0 (by omega)
    rw [run, nextState_of_next (step_eq_afterRecord hs hp), walk]
    exact ih (by rw [afterRecord_pace hs, hp]) fun m hm => h (m + 1) (by omega)

/-- A record takes a step at least (R132). -/
theorem le_chainTicks (n : Nat) (s : State) : n ≤ chainTicks n s := by
  induction n generalizing s with
  | zero => exact Nat.zero_le _
  | succ n ih =>
    have := ih (afterRecord s)
    rw [chainTicks, recordTicks]
    omega

/-- A machine whose walker is always at FETCH(0) between records stays BUSY, at either pace (R90). -/
theorem run_busy_of_walk {s : State} (h : ∀ m, (walk m s).walker = .fetch 0) (n : Nat) : (run n s).busy = true := by
  cases hp : s.pace with
  | byBusOperation =>
    have hbusy (m : Nat) (hm : m ≤ n) : (ticks m s).busy = true :=
      ticks_busy_in_chain (n + 1) (fun m _ => h m) (Nat.lt_of_lt_of_le (Nat.lt_succ_of_le hm) (le_chainTicks _ s))
    rw [run_eq_ticks n hp fun m hm => hbusy m (Nat.le_of_lt hm)]
    exact hbusy n (Nat.le_refl n)
  | byRecord =>
    rw [run_eq_walk n hp fun m _ => h m, busy_iff, h n]
    exact Walker.noConfusion

/-- Settles O37: every record fetched is ten zeros, which is not the last one and copies nothing. -/
theorem zeroMemoryChainNeverCompletes : Obligations.ZeroMemoryChainNeverCompletes := by
  intro s hs hram hblank n
  have hwalk (m : Nat) := walk_allBlank m hs ⟨hram, hblank⟩
  obtain ⟨hw, hp, -, -⟩ := walk_of_not_last n hs fun m _ => recordLast_of_allBlank (hwalk m).2
  exact ⟨hw, hp, (hwalk n).2.ram, walk_descAddr n fun m _ => (hwalk m).1, run_busy_of_walk (fun m => (hwalk m).1) n⟩

end Sys2Proof.Machine

/-! PROOFS. The opcode table's numbering (30_encoding.md): a number is its bytes, so the word of an encoding decodes to the instruction
encoded. -/

namespace Sys2Proof

/-- The bytes of a little-endian value are those it was made of (R55). -/
theorem bytesOf_wordOf (bs : List Byte) : bytesOf bs.length (wordOf bs) = bs := by
  induction bs with
  | nil => rfl
  | cons b bs ih =>
    have hlow : BitVec.ofNat 8 (b.toNat + 256 * wordOf bs) = b := by
      apply BitVec.eq_of_toNat_eq
      rw [BitVec.toNat_ofNat]
      omega
    have hhigh : (b.toNat + 256 * wordOf bs) / 256 = wordOf bs := by omega
    rw [List.length_cons, wordOf, bytesOf, hlow, hhigh, ih]

/-- A little-endian value has eight bits for each byte (R55). -/
theorem wordOf_lt (bs : List Byte) : wordOf bs < 2 ^ (8 * bs.length) := by
  induction bs with
  | nil => exact Nat.one_pos
  | cons b bs ih =>
    have hb := b.isLt
    rw [wordOf, List.length_cons, Nat.mul_succ, Nat.pow_add]
    omega

/-- An instruction takes the bytes of its form (R52, R54; log entry 6). -/
theorem length_encode (i : Instr) : (encode i).length = i.form.size := by cases i <;> rfl

/-- The word an instruction is encoded as decodes to it, at any width of its form (R55, R61). -/
theorem decodeTableWord_of_encode {nbits w : Nat} {i : Instr} (hform : formOfBits nbits = i.form) (hwf : i.wellFormed = true)
    (hword : wordOf (encode i) = w) : decodeTableWord nbits w = some i := by
  have hdec : decode i.form (encode i) = .ok (i, []) := by simpa using decodeOfEncodeIsTheInstruction i [] hwf
  subst hword
  simp only [decodeTableWord, hform, ← length_encode, wordOf_lt, if_true, bytesOf_wordOf, hdec]

/-- Settles O52: each word is the one its instruction is encoded as. -/
theorem sampleWordsDecode : Obligations.SampleWordsDecode := by
  refine ⟨?_, ?_, ?_, ?_, ?_, ?_, ?_, ?_, ?_, ?_⟩ <;> exact decodeTableWord_of_encode rfl rfl rfl

end Sys2Proof
